-- ==== Sys2Proof/Word.lean ====
section
/-! DEFINITION. The word types of the QRDE: bytes, 32-bit registers, 13-bit byte offsets, bit strings
(spec 00_scope.md R7, R8). -/

namespace Sys2Proof

/-- A byte of the staging or content buffer (R31, R32). -/
abbrev Byte := BitVec 8

/-- A 32-bit register or bus word; bit 0 is the least significant (R8). -/
abbrev Word := BitVec 32

/-- A byte offset inside the 8 KiB HOST block, 13 bits (R7, R39). -/
abbrev Offset := BitVec 13

/-- A bit string; index 0 is the first (leftmost) bit, the one emitted first (R8). -/
abbrev Bits := List Bool

end Sys2Proof
end

