-- ==== Sys2Proof/Config.lean ====
section
/-! DEFINITION. What one QRDE fixes: the closed sets of modes and levels, the parameters of rule R7 with
the two ROMs, and the values the spec leaves free. -/

namespace Sys2Proof

/-- The encoding mode, "closed variant: Numeric | Alphanumeric | Byte" (R13, R103). -/
inductive Mode where
  | numeric
  | alphanumeric
  | byte
  deriving DecidableEq, Repr

/-- The error-correction level, in order of increasing strength and decreasing capacity (R104, C4). -/
inductive EcLevel where
  | l
  | m
  | q
  | h
  deriving DecidableEq, Repr

/-- A resolved version. The number of version `v` is `v.val + 1`, so these are exactly 1..40 (R13, R30). -/
abbrev Version := Fin 40

/-- One CapacityEntry: the most characters that fit in each mode (R68). -/
structure CapEntry where
  numeric : Nat
  alphanumeric : Nat
  byte : Nat
  deriving DecidableEq, Repr

/-- The four CAP_ROM entries of one version, by level (R68). -/
structure CapRow where
  l : CapEntry
  m : CapEntry
  q : CapEntry
  h : CapEntry
  deriving DecidableEq, Repr

/-- The four DCW_ROM entries of one version, by level, in 8-bit codewords (R69). -/
structure DcwRow where
  l : Nat
  m : Nat
  q : Nat
  h : Nat
  deriving DecidableEq, Repr

/-- The parameters of rule R7 that hold data. `T_CMD` is `Config.tCmd` below. The constraints R7, R72 and
R73 put on them are `Params.Lawful` in Safety.lean; a value outside them can be instantiated too,
as 95_test_vectors.md V-X1 does. -/
structure Params where
  /-- Bytes the staging buffer and the content buffer hold. -/
  stageDepth : Nat
  /-- 32-bit words in the output window. -/
  outWords : Nat
  /-- CAP_ROM, one row for each version 1..40. -/
  capRom : Vector CapRow 40
  /-- DCW_ROM, one row for each version 1..40. -/
  dcwRom : Vector DcwRow 40
  deriving DecidableEq, Repr

/-- FREE VALUE (log 4): the n-th unspecified 32-bit value a read returns while STATUS.BUSY = 1 (R43). -/
opaque Config.busyRead : Nat → BitVec 32

/-- FREE VALUE (log 5): the n-th draw of STATUS[7:4] (STATE, VERSION_VALID, OUT_VALID) read while
STATUS.BUSY = 1 (R37, R43). -/
opaque Config.busyStatus : Nat → BitVec 4

/-- FREE VALUE (log 3): `T_CMD - 1` for the command of this opcode issued at this draw. `T_CMD` is
unspecified, finite and at least 1 (R7, R289). -/
opaque Config.tCmd : BitVec 8 → Nat → Nat

end Sys2Proof
end

