-- ==== Sys2Proof/Syntax.lean ====
section
/-! DEFINITION. The instructions of the QRDE, one constructor for each row of spec/opcode_table.json, the
bus request that carries one, and the places of the HOST block's address map. -/

namespace Sys2Proof

/-- One HOST access as the request ports carry it (10_state.md R39). -/
structure Request where
  /-- `req_write`: 1 write, 0 read. -/
  write : Bool
  /-- `req_addr`: byte offset within the block. -/
  addr : Offset
  /-- `req_size`: log2 of the access size in bytes; only 2 is legal (R62). -/
  size : BitVec 2
  /-- `req_wdata`. -/
  wdata : Word
  deriving DecidableEq, Repr

/-- The places of the HOST block's address map (20_memory.md R60). -/
inductive Loc where
  | id
  | cmd
  | arg
  | status
  | err
  | result
  | mode
  | ecLevel
  | version
  | contentLen
  | stageLen
  | stageData
  | outBitlen
  | reqBits
  /-- Offsets 0x038-0x0FFC: RAZ/WI (R61). -/
  | reserved
  /-- Output-window word k, at 0x1000 + 4k (R64). -/
  | out (k : Nat)
  deriving DecidableEq, Repr

/-- The instructions: the host commands (R100) and the port operations. Reserved bits that are ignored
(CMD[31:8], STAGE_DATA[31:8]) are no operand and are not kept (R101, R105). -/
inductive Instr where
  /-- NOP, opcode 0x00 (R230). -/
  | nop
  /-- SET_CONTENT, opcode 0x01 (R148). -/
  | setContent
  /-- SET_EC_LEVEL, opcode 0x02 (R162). Its operand is the latched ARG[1:0], which State holds. -/
  | setEcLevel
  /-- GET_VERSION, opcode 0x03 (R163). -/
  | getVersion
  /-- GET_FINAL_DATA, opcode 0x04 (R209). -/
  | getFinalData
  /-- VALIDATE_LENGTH, opcode 0x05 (R149). -/
  | validateLength
  /-- STAGE_CLEAR, opcode 0x06 (R231). -/
  | stageClear
  /-- SOFT_RESET, opcode 0x07 (R232). -/
  | softReset
  /-- ILLEGAL, opcodes 0x08-0x0F (R233); `low` is OPCODE[2:0]. -/
  | illegal08 (low : BitVec 3)
  /-- ILLEGAL, opcodes 0x10-0x1F (R233); `low` is OPCODE[3:0]. -/
  | illegal10 (low : BitVec 4)
  /-- ILLEGAL, opcodes 0x20-0x3F (R233); `low` is OPCODE[4:0]. -/
  | illegal20 (low : BitVec 5)
  /-- ILLEGAL, opcodes 0x40-0x7F (R233); `low` is OPCODE[5:0]. -/
  | illegal40 (low : BitVec 6)
  /-- ILLEGAL, opcodes 0x80-0xFF (R233); `low` is OPCODE[6:0]. -/
  | illegal80 (low : BitVec 7)
  /-- STAGE_DATA, a write to 0x02C; `b` is req_wdata[7:0] (R105, R146). -/
  | stageData (b : Byte)
  /-- ARG_WRITE, a write to 0x008 (R235). -/
  | argWrite (data : Word)
  /-- RO_WRITE, an ignored write: to a read-only register, an output-window word (R236) or a reserved
  offset (R61). -/
  | roWrite (off : Offset) (data : Word)
  /-- READ, a read of an aligned offset (R234). -/
  | read (off : Offset)
  deriving DecidableEq, Repr

end Sys2Proof
end

