-- ==== Sys2Proof/Machine/AddressMap.lean ====
section
/-! DEFINITION. The HOST block's address map as a function (20_memory.md R60, R61, R62). -/

namespace Sys2Proof.Machine

/-- `req_addr[1:0] = 0`: the offset names a whole word (R62). -/
def aligned (off : Offset) : Bool := off.extractLsb' 0 2 == 0#2

/-- The place an aligned offset names (R60). An offset from 0x1000 on is a word of the output window. -/
def locOf (off : Offset) : Loc :=
  if off.getLsbD 12 then .out (off.extractLsb' 2 10).toNat
  else if off = 0x000#13 then .id
  else if off = 0x004#13 then .cmd
  else if off = 0x008#13 then .arg
  else if off = 0x00C#13 then .status
  else if off = 0x010#13 then .err
  else if off = 0x014#13 then .result
  else if off = 0x018#13 then .mode
  else if off = 0x01C#13 then .ecLevel
  else if off = 0x020#13 then .version
  else if off = 0x024#13 then .contentLen
  else if off = 0x028#13 then .stageLen
  else if off = 0x02C#13 then .stageData
  else if off = 0x030#13 then .outBitlen
  else if off = 0x034#13 then .reqBits
  else .reserved

/-- A write to this place starts a command, sets ARG or appends a byte; a write anywhere else is ignored
(R61, R236). -/
def writable : Loc → Bool
  | .cmd | .arg | .stageData => true
  | .id | .status | .err | .result | .mode | .ecLevel | .version | .contentLen | .stageLen
  | .outBitlen | .reqBits | .reserved | .out _ => false

end Sys2Proof.Machine
end

