-- ==== Sys2Proof/WellFormed.lean ====
section
/-! DEFINITION. Which terms of `Instr` are instructions of the QRDE. The operands of every other constructor
are legal at every value (30_encoding.md R105). -/

namespace Sys2Proof

/-- A READ names an aligned offset (R62); an RO_WRITE names an aligned offset whose writes are ignored
(R61, R236). -/
def Instr.wellFormed : Instr → Bool
  | .read off => Machine.aligned off
  | .roWrite off _ => Machine.aligned off && !Machine.writable (Machine.locOf off)
  | .nop | .setContent | .setEcLevel | .getVersion | .getFinalData | .validateLength | .stageClear
  | .softReset | .illegal08 _ | .illegal10 _ | .illegal20 _ | .illegal40 _ | .illegal80 _
  | .stageData _ | .argWrite _ => true

end Sys2Proof
end

