-- ==== Sys2Proof/Decode.lean ====
section
/-! DEFINITION. From the words on the bus to instructions, and back. The spec's encoding of a host program
is its list of bus accesses (30_encoding.md R113); the model writes one access as a 48-bit request word:
req_wdata in bits 31:0, as spec/opcode_table.json numbers them, req_addr in bits 44:32, req_size in bits
46:45, req_write in bit 47. The place of the three control fields is the model's (DESIGN CHOICE, log 11). -/

namespace Sys2Proof

open Machine

/-- Why a request, or a sequence of bytes, is no instruction. -/
inductive DecodeError where
  /-- `req_size` is not 2: a byte or halfword access, or the size code 3 (R62). -/
  | wrongSize
  /-- `req_addr[1:0]` is not 0 (R62). -/
  | misaligned
  /-- Fewer than the six bytes of a request word. -/
  | truncated
  deriving DecidableEq, Repr

/-- The command an OPCODE names: the whole 8-bit field is compared (R102), and 0x08-0xFF are the five
ILLEGAL rows (R106). -/
def decodeOpcode (op : BitVec 8) : Instr :=
  if op = 0x00#8 then .nop
  else if op = 0x01#8 then .setContent
  else if op = 0x02#8 then .setEcLevel
  else if op = 0x03#8 then .getVersion
  else if op = 0x04#8 then .getFinalData
  else if op = 0x05#8 then .validateLength
  else if op = 0x06#8 then .stageClear
  else if op = 0x07#8 then .softReset
  else if op &&& 0xF8#8 = 0x08#8 then .illegal08 (op.extractLsb' 0 3)
  else if op &&& 0xF0#8 = 0x10#8 then .illegal10 (op.extractLsb' 0 4)
  else if op &&& 0xE0#8 = 0x20#8 then .illegal20 (op.extractLsb' 0 5)
  else if op &&& 0xC0#8 = 0x40#8 then .illegal40 (op.extractLsb' 0 6)
  else .illegal80 (op.extractLsb' 0 7)

/-- CMD[7:0] is OPCODE; CMD[31:8] are ignored (R101). -/
def opcodeOf (wdata : Word) : BitVec 8 := wdata.extractLsb' 0 8

/-- STAGE_DATA[7:0] is BYTE; the other bits are ignored (R33, R105). -/
def byteOf (wdata : Word) : Byte := wdata.extractLsb' 0 8

/-- The instruction a request carries, or the reason it is none. -/
def decodeRequest (r : Request) : Except DecodeError Instr :=
  if r.size ≠ 2#2 then .error .wrongSize
  else if !aligned r.addr then .error .misaligned
  else if r.write then
    match locOf r.addr with
    | .cmd => .ok (decodeOpcode (opcodeOf r.wdata))
    | .arg => .ok (.argWrite r.wdata)
    | .stageData => .ok (.stageData (byteOf r.wdata))
    | .id | .status | .err | .result | .mode | .ecLevel | .version | .contentLen | .stageLen
    | .outBitlen | .reqBits | .reserved | .out _ => .ok (.roWrite r.addr r.wdata)
  else .ok (.read r.addr)

/-- The request word of a request (layout above). -/
def Request.toWord (r : Request) : BitVec 48 :=
  (BitVec.ofBool r.write ++ r.size ++ r.addr ++ r.wdata).cast rfl

/-- The request a request word holds. -/
def Request.ofWord (w : BitVec 48) : Request where
  write := w.getLsbD 47
  addr := w.extractLsb' 32 13
  size := w.extractLsb' 45 2
  wdata := w.extractLsb' 0 32

/-- The instruction of a request word. -/
def decodeWord (w : BitVec 48) : Except DecodeError Instr := decodeRequest (Request.ofWord w)

/-- The six bytes of a request word, the least significant first (log 11). -/
def bytesOfWord (w : BitVec 48) : List Byte :=
  [w.extractLsb' 0 8, w.extractLsb' 8 8, w.extractLsb' 16 8, w.extractLsb' 24 8,
    w.extractLsb' 32 8, w.extractLsb' 40 8]

/-- The request word of six bytes, the least significant first. -/
def wordOfBytes (b0 b1 b2 b3 b4 b5 : Byte) : BitVec 48 :=
  (b5 ++ b4 ++ b3 ++ b2 ++ b1 ++ b0).cast rfl

/-- The first instruction of a sequence of bytes and the bytes after it. -/
def decodeBytes : List Byte → Except DecodeError (Instr × List Byte)
  | b0 :: b1 :: b2 :: b3 :: b4 :: b5 :: rest =>
    match decodeWord (wordOfBytes b0 b1 b2 b3 b4 b5) with
    | .ok i => .ok (i, rest)
    | .error e => .error e
  | _ => .error .truncated

/-- The offsets a write needs (R60). -/
def cmdOffset : Offset := 0x004#13
def argOffset : Offset := 0x008#13
def stageDataOffset : Offset := 0x02C#13

/-- The command word write `W 0x004 op` (R101), reserved bits 0. -/
def cmdRequest (op : BitVec 8) : Request := ⟨true, cmdOffset, 2#2, op.setWidth 32⟩

/-- The request that carries an instruction, from the encodings of R101, R102, R105 and R113. -/
def encodeRequest : Instr → Request
  | .nop => cmdRequest 0x00#8
  | .setContent => cmdRequest 0x01#8
  | .setEcLevel => cmdRequest 0x02#8
  | .getVersion => cmdRequest 0x03#8
  | .getFinalData => cmdRequest 0x04#8
  | .validateLength => cmdRequest 0x05#8
  | .stageClear => cmdRequest 0x06#8
  | .softReset => cmdRequest 0x07#8
  | .illegal08 low => cmdRequest (0b00001#5 ++ low)
  | .illegal10 low => cmdRequest (0b0001#4 ++ low)
  | .illegal20 low => cmdRequest (0b001#3 ++ low)
  | .illegal40 low => cmdRequest (0b01#2 ++ low)
  | .illegal80 low => cmdRequest (0b1#1 ++ low)
  | .stageData b => ⟨true, stageDataOffset, 2#2, b.setWidth 32⟩
  | .argWrite data => ⟨true, argOffset, 2#2, data⟩
  | .roWrite off data => ⟨true, off, 2#2, data⟩
  | .read off => ⟨false, off, 2#2, 0#32⟩

/-- The request word of an instruction. -/
def encode (i : Instr) : BitVec 48 := (encodeRequest i).toWord

/-- The bytes of an instruction. -/
def encodeBytes (i : Instr) : List Byte := bytesOfWord (encode i)

/-- The request a table word stands for. A word of at most 32 bits is the word of a command: it is data
written to CMD. A longer word is a whole request word (log 11). -/
def tableRequest (nbits w : Nat) : Request :=
  if nbits ≤ 32 then ⟨true, cmdOffset, 2#2, BitVec.ofNat 32 w⟩ else Request.ofWord (BitVec.ofNat 48 w)

/-- The instruction the decoder reads from an instruction word numbered as spec/opcode_table.json
numbers its bits. -/
def decodeTableWord (nbits w : Nat) : Option Instr :=
  match decodeBytes (bytesOfWord (tableRequest nbits w).toWord) with
  | .ok (i, _) => some i
  | .error _ => none

end Sys2Proof
end

