-- ==== Sys2Proof/Machine/Bits.lean ====
section
/-! DEFINITION. Bit strings: `bin_w` (00_scope.md R9) and its inverse, used to pack the output window. -/

namespace Sys2Proof.Machine

/-- `bin_w(v)`: exactly w bits, most significant first (R9). Used where v < 2^w. -/
def binW (w v : Nat) : Bits := (List.range w).map fun i => v.testBit (w - 1 - i)

/-- The number a bit string spells, most significant bit first. -/
def bitsToNat (bs : Bits) : Nat := bs.foldl (fun n b => 2 * n + b.toNat) 0

end Sys2Proof.Machine
end

