-- ==== Sys2Proof/Machine/Rom.lean ====
section
/-! DEFINITION. The read-only tables: how CAP and DCW read an entry (20_memory.md R68, R69), the default
contents of the two ROMs (R70, R71) and the ceiling constants (R74). -/

namespace Sys2Proof

/-- The number 1..40 of a version. -/
def Machine.versionNumber (v : Version) : Nat := v.val + 1

/-- `CAP(v, e, m)` (R68). -/
def Params.cap (P : Params) (v : Version) (e : EcLevel) (m : Mode) : Nat :=
  let row := P.capRom[v.val]
  let entry := match e with
    | .l => row.l
    | .m => row.m
    | .q => row.q
    | .h => row.h
  match m with
  | .numeric => entry.numeric
  | .alphanumeric => entry.alphanumeric
  | .byte => entry.byte

/-- `DCW(v, e)` (R69). -/
def Params.dcw (P : Params) (v : Version) (e : EcLevel) : Nat :=
  let row := P.dcwRom[v.val]
  match e with
  | .l => row.l
  | .m => row.m
  | .q => row.q
  | .h => row.h

namespace Machine

/-- CEIL_MODE, "absolute ceiling across all versions/EC levels" (R74). -/
def ceilMode : Mode → Nat
  | .numeric => 7089
  | .alphanumeric => 4296
  | .byte => 2953

/-- CEIL_LEVEL, "absolute per-level ceiling" (R74). -/
def ceilLevel : EcLevel → Nat
  | .l => 7089
  | .m => 5596
  | .q => 3993
  | .h => 3057

/-- CAP_ROM rows of versions 1 to 10: L, M, Q, H, each numeric, alphanumeric, byte (R70). -/
def capRows0 : List CapRow := [
  ⟨⟨41, 25, 17⟩, ⟨34, 20, 14⟩, ⟨27, 16, 11⟩, ⟨17, 10, 7⟩⟩,
  ⟨⟨77, 47, 32⟩, ⟨63, 38, 26⟩, ⟨48, 29, 20⟩, ⟨34, 20, 14⟩⟩,
  ⟨⟨127, 77, 53⟩, ⟨101, 61, 42⟩, ⟨77, 47, 32⟩, ⟨58, 35, 24⟩⟩,
  ⟨⟨187, 114, 78⟩, ⟨149, 90, 62⟩, ⟨111, 67, 46⟩, ⟨82, 50, 34⟩⟩,
  ⟨⟨255, 154, 106⟩, ⟨202, 122, 84⟩, ⟨144, 87, 60⟩, ⟨106, 64, 44⟩⟩,
  ⟨⟨322, 195, 134⟩, ⟨255, 154, 106⟩, ⟨178, 108, 74⟩, ⟨139, 84, 58⟩⟩,
  ⟨⟨370, 224, 154⟩, ⟨293, 178, 122⟩, ⟨207, 125, 86⟩, ⟨154, 93, 64⟩⟩,
  ⟨⟨461, 279, 192⟩, ⟨365, 221, 152⟩, ⟨259, 157, 108⟩, ⟨202, 122, 84⟩⟩,
  ⟨⟨552, 335, 230⟩, ⟨432, 262, 180⟩, ⟨312, 189, 130⟩, ⟨235, 143, 98⟩⟩,
  ⟨⟨652, 395, 271⟩, ⟨513, 311, 213⟩, ⟨364, 221, 151⟩, ⟨288, 174, 119⟩⟩]

/-- CAP_ROM rows of versions 11 to 20: L, M, Q, H, each numeric, alphanumeric, byte (R70). -/
def capRows1 : List CapRow := [
  ⟨⟨772, 468, 321⟩, ⟨604, 366, 251⟩, ⟨427, 259, 177⟩, ⟨331, 200, 137⟩⟩,
  ⟨⟨883, 535, 367⟩, ⟨691, 419, 287⟩, ⟨489, 296, 203⟩, ⟨374, 227, 155⟩⟩,
  ⟨⟨1022, 619, 425⟩, ⟨796, 483, 331⟩, ⟨580, 352, 241⟩, ⟨427, 259, 177⟩⟩,
  ⟨⟨1101, 667, 458⟩, ⟨871, 528, 362⟩, ⟨621, 376, 258⟩, ⟨468, 283, 194⟩⟩,
  ⟨⟨1250, 758, 520⟩, ⟨991, 600, 412⟩, ⟨703, 426, 292⟩, ⟨530, 321, 220⟩⟩,
  ⟨⟨1408, 854, 586⟩, ⟨1082, 656, 450⟩, ⟨775, 470, 322⟩, ⟨602, 365, 250⟩⟩,
  ⟨⟨1548, 938, 644⟩, ⟨1212, 734, 504⟩, ⟨876, 531, 364⟩, ⟨674, 408, 280⟩⟩,
  ⟨⟨1725, 1046, 718⟩, ⟨1346, 816, 560⟩, ⟨948, 574, 394⟩, ⟨746, 452, 310⟩⟩,
  ⟨⟨1903, 1153, 792⟩, ⟨1500, 909, 624⟩, ⟨1063, 644, 442⟩, ⟨813, 493, 338⟩⟩,
  ⟨⟨2061, 1249, 858⟩, ⟨1600, 970, 666⟩, ⟨1159, 702, 482⟩, ⟨919, 557, 382⟩⟩]

/-- CAP_ROM rows of versions 21 to 30: L, M, Q, H, each numeric, alphanumeric, byte (R70). -/
def capRows2 : List CapRow := [
  ⟨⟨2232, 1352, 929⟩, ⟨1708, 1035, 711⟩, ⟨1224, 742, 509⟩, ⟨969, 587, 403⟩⟩,
  ⟨⟨2409, 1460, 1003⟩, ⟨1872, 1134, 779⟩, ⟨1358, 823, 565⟩, ⟨1056, 640, 439⟩⟩,
  ⟨⟨2620, 1588, 1091⟩, ⟨2059, 1248, 857⟩, ⟨1468, 890, 611⟩, ⟨1108, 672, 461⟩⟩,
  ⟨⟨2812, 1704, 1171⟩, ⟨2188, 1326, 911⟩, ⟨1588, 963, 661⟩, ⟨1228, 744, 511⟩⟩,
  ⟨⟨3057, 1853, 1273⟩, ⟨2395, 1451, 997⟩, ⟨1718, 1041, 715⟩, ⟨1286, 779, 535⟩⟩,
  ⟨⟨3283, 1990, 1367⟩, ⟨2544, 1542, 1059⟩, ⟨1804, 1094, 751⟩, ⟨1425, 864, 593⟩⟩,
  ⟨⟨3517, 2132, 1465⟩, ⟨2701, 1637, 1125⟩, ⟨1933, 1172, 805⟩, ⟨1501, 910, 625⟩⟩,
  ⟨⟨3669, 2223, 1528⟩, ⟨2857, 1732, 1190⟩, ⟨2085, 1263, 868⟩, ⟨1581, 958, 658⟩⟩,
  ⟨⟨3909, 2369, 1628⟩, ⟨3035, 1839, 1264⟩, ⟨2181, 1322, 908⟩, ⟨1677, 1016, 698⟩⟩,
  ⟨⟨4158, 2520, 1732⟩, ⟨3289, 1994, 1370⟩, ⟨2358, 1429, 982⟩, ⟨1782, 1080, 742⟩⟩]

/-- CAP_ROM rows of versions 31 to 40: L, M, Q, H, each numeric, alphanumeric, byte (R70). -/
def capRows3 : List CapRow := [
  ⟨⟨4417, 2677, 1840⟩, ⟨3486, 2113, 1452⟩, ⟨2473, 1499, 1030⟩, ⟨1897, 1150, 790⟩⟩,
  ⟨⟨4686, 2840, 1952⟩, ⟨3693, 2238, 1538⟩, ⟨2670, 1618, 1112⟩, ⟨2022, 1226, 842⟩⟩,
  ⟨⟨4965, 3009, 2068⟩, ⟨3909, 2369, 1628⟩, ⟨2805, 1700, 1168⟩, ⟨2157, 1307, 898⟩⟩,
  ⟨⟨5253, 3183, 2188⟩, ⟨4134, 2506, 1722⟩, ⟨2949, 1787, 1228⟩, ⟨2301, 1394, 958⟩⟩,
  ⟨⟨5529, 3351, 2303⟩, ⟨4343, 2632, 1809⟩, ⟨3081, 1867, 1283⟩, ⟨2361, 1431, 983⟩⟩,
  ⟨⟨5836, 3537, 2431⟩, ⟨4588, 2780, 1911⟩, ⟨3244, 1966, 1351⟩, ⟨2524, 1530, 1051⟩⟩,
  ⟨⟨6153, 3729, 2563⟩, ⟨4775, 2894, 1989⟩, ⟨3417, 2071, 1423⟩, ⟨2625, 1591, 1093⟩⟩,
  ⟨⟨6479, 3927, 2699⟩, ⟨5039, 3054, 2099⟩, ⟨3599, 2181, 1499⟩, ⟨2735, 1658, 1139⟩⟩,
  ⟨⟨6743, 4087, 2809⟩, ⟨5313, 3220, 2213⟩, ⟨3791, 2298, 1579⟩, ⟨2927, 1774, 1219⟩⟩,
  ⟨⟨7089, 4296, 2953⟩, ⟨5596, 3391, 2331⟩, ⟨3993, 2420, 1663⟩, ⟨3057, 1852, 1273⟩⟩]

/-- DCW_ROM rows of versions 1 to 10: L, M, Q, H (R71). -/
def dcwRows0 : List DcwRow := [
  ⟨19, 16, 13, 9⟩,
  ⟨34, 28, 22, 16⟩,
  ⟨55, 44, 34, 26⟩,
  ⟨80, 64, 48, 36⟩,
  ⟨108, 86, 62, 46⟩,
  ⟨136, 108, 76, 60⟩,
  ⟨156, 124, 88, 66⟩,
  ⟨194, 154, 110, 86⟩,
  ⟨232, 182, 132, 100⟩,
  ⟨274, 216, 154, 122⟩]

/-- DCW_ROM rows of versions 11 to 20: L, M, Q, H (R71). -/
def dcwRows1 : List DcwRow := [
  ⟨324, 254, 180, 140⟩,
  ⟨370, 290, 206, 158⟩,
  ⟨428, 334, 244, 180⟩,
  ⟨461, 365, 261, 197⟩,
  ⟨523, 415, 295, 223⟩,
  ⟨589, 453, 325, 253⟩,
  ⟨647, 507, 367, 283⟩,
  ⟨721, 563, 397, 313⟩,
  ⟨795, 627, 445, 341⟩,
  ⟨861, 669, 485, 385⟩]

/-- DCW_ROM rows of versions 21 to 30: L, M, Q, H (R71). -/
def dcwRows2 : List DcwRow := [
  ⟨932, 714, 512, 406⟩,
  ⟨1006, 782, 568, 442⟩,
  ⟨1094, 860, 614, 464⟩,
  ⟨1174, 914, 664, 514⟩,
  ⟨1276, 1000, 718, 538⟩,
  ⟨1370, 1062, 754, 596⟩,
  ⟨1468, 1128, 808, 628⟩,
  ⟨1531, 1193, 871, 661⟩,
  ⟨1631, 1267, 911, 701⟩,
  ⟨1735, 1373, 985, 745⟩]

/-- DCW_ROM rows of versions 31 to 40: L, M, Q, H (R71). -/
def dcwRows3 : List DcwRow := [
  ⟨1843, 1455, 1033, 793⟩,
  ⟨1955, 1541, 1115, 845⟩,
  ⟨2071, 1631, 1171, 901⟩,
  ⟨2191, 1725, 1231, 961⟩,
  ⟨2306, 1812, 1286, 986⟩,
  ⟨2434, 1914, 1354, 1054⟩,
  ⟨2566, 1992, 1426, 1096⟩,
  ⟨2702, 2102, 1502, 1142⟩,
  ⟨2812, 2216, 1582, 1222⟩,
  ⟨2956, 2334, 1666, 1276⟩]

end Machine

/-- The default parameters of rule R7: STAGE_DEPTH 32768, OUT_WORDS 1024 and the ROMs of R70 and R71. -/
def Params.default : Params where
  stageDepth := 32768
  outWords := 1024
  capRom := ⟨⟨Machine.capRows0 ++ Machine.capRows1 ++ Machine.capRows2 ++ Machine.capRows3⟩, rfl⟩
  dcwRom := ⟨⟨Machine.dcwRows0 ++ Machine.dcwRows1 ++ Machine.dcwRows2 ++ Machine.dcwRows3⟩, rfl⟩

end Sys2Proof
end

