-- ==== Sys2Proof/Machine/State.lean ====
section
/-! DEFINITION. The state of the QRDE (10_state.md), the reasons a step can stop, and the state after
reset. -/

namespace Sys2Proof.Machine

/-- ERR.CODE (60_exceptions.md R250); the codes 7-15 are never produced. -/
inductive ErrCode where
  | noError
  | invalidInput
  | invalidLength
  | invalidVersion
  | internal
  | stageOverflow
  | badCommand
  deriving DecidableEq, Repr

/-- The pending command (10_state.md R36). -/
structure Pending where
  /-- OPCODE, as the CMD write gave it. -/
  opcode : BitVec 8
  /-- ARG, as it stood at the CMD write (R36, R287). -/
  arg : Word
  /-- Cycles that still pass before the commit; the commit itself takes the step after them (log 2). -/
  remaining : Nat
  deriving DecidableEq, Repr

/-- What the response ports answered to an accepted access (10_state.md R39). -/
structure Response where
  /-- `rsp_rdata`: read data, 0 for writes. -/
  rdata : Word
  /-- `rsp_err`: bus error, the access had no effect. -/
  err : Bool
  deriving DecidableEq, Repr

/-- What the outside does in one cycle (10_state.md R39, 70_reset_and_hazards.md R280). -/
inductive HostEvent where
  /-- `req_valid` = 1: the HOST presents this access. -/
  | access (r : Request)
  /-- `req_valid` = 0: no access. -/
  | idle
  /-- `rst` = 1 at this rising edge. -/
  | rst
  deriving DecidableEq, Repr

/-- The two kinds of HOST misuse that rule R258 asks a model to treat as a fault of the HOST program. The
model keeps the hardware's fixed behaviour and records the first one in State (log 6). -/
inductive HostFault where
  /-- A bus error access (R62). -/
  | busError
  /-- A CMD, ARG or STAGE_DATA write while BUSY (R286). -/
  | writeWhileBusy
  deriving DecidableEq, Repr

/-- The state. CONTENT_LEN, STAGE_LEN and OUT_BITLEN are the lengths of `content`, `stage` and `out`, and
STATUS.BUSY is `pending.isSome`: what shares storage is stored once (log 9). -/
structure State where
  /-- The parameters and ROMs (R7, R66); no step changes them. -/
  params : Params
  /-- CONTENT[0 .. CONTENT_LEN-1] (R31). -/
  content : List Byte
  /-- MODE (R28). -/
  mode : Mode
  /-- EC_LEVEL (R29). -/
  ecLevel : EcLevel
  /-- VERSION; `none` is 0, unset (R30). -/
  version : Option Version
  /-- STAGE[0 .. STAGE_LEN-1] (R32). -/
  stage : List Byte
  /-- STATUS.STAGE_OVF (R25). -/
  stageOvf : Bool
  /-- STATUS.FAULT (R25, R255). -/
  fault : Bool
  /-- STATUS.OVERRUN (R25, R286). -/
  overrun : Bool
  /-- STATUS.OUT_VALID (R25, R210). -/
  outValid : Bool
  /-- OUT[0 .. OUT_BITLEN-1]; every later bit of OUT is 0 (R34, R209). -/
  out : Bits
  /-- ARG (R24). -/
  arg : Word
  /-- ERR (R26). -/
  err : ErrCode
  /-- RESULT (R27). -/
  result : Word
  /-- The pending command (R36). -/
  pending : Option Pending
  /-- The response of the last accepted access; `none` if none was accepted (R39, log 10). -/
  rsp : Option Response
  /-- What the HOST and the platform do in the coming cycles, the next first (R40, log 7). -/
  host : List HostEvent
  /-- The model's own: how many free values were drawn (log 17). -/
  draws : Nat
  /-- The model's own: the first HOST fault met (R258, log 6). -/
  hostFault : Option HostFault
  /-- The model's own: a read of STATUS performed after the HOST's last CMD write returned BUSY = 0, the second
  condition of the end of a run (70_reset_and_hazards.md R291, log 23). -/
  polled : Bool
  deriving DecidableEq, Repr

/-- STATUS.BUSY (R25, R36). -/
def State.busy (s : State) : Bool := s.pending.isSome

/-- The reasons a step faults. There is none: the QRDE has no trap (60_exceptions.md R253), every rule
gives the machine's behaviour a next state, and Fault(INTERNAL) is the STATUS.FAULT bit (R255). The HOST
faults of R258 are recorded in `State.hostFault`. -/
inductive Fault where
  deriving DecidableEq, Repr

/-- The reasons a step is refused. -/
inductive Refusal where
  /-- An instruction with no meaning yet. No arm of exec raises it; safe. -/
  | notModelled (mnemonic : String)
  deriving DecidableEq, Repr

/-- What a meaning answers. -/
abbrev Result := Host.Outcome State Fault Refusal

/-- The state right after reset (10_state.md R38), with the default parameters (R7) and the empty input
queue. -/
def State.reset : State where
  params := Params.default
  content := []
  mode := .numeric
  ecLevel := .m
  version := none
  stage := []
  stageOvf := false
  fault := false
  overrun := false
  outValid := false
  out := []
  arg := 0
  err := .noError
  result := 0
  pending := none
  rsp := none
  host := []
  draws := 0
  hostFault := none
  polled := true

end Sys2Proof.Machine
end

