-- ==== Sys2Proof/Machine/Operands.lean ====
section
/-! DEFINITION. The codes registers hold and the operands commands take (30_encoding.md R103-R105, R108,
R109; 10_state.md R22-R36; 60_exceptions.md R250). -/

namespace Sys2Proof.Machine

/-- `MI(m)`, the 4-bit mode indicator code, which MODE holds too (R103). -/
def modeCode : Mode → BitVec 4
  | .numeric => 0x1
  | .alphanumeric => 0x2
  | .byte => 0x4

/-- The EC level of a 2-bit code (R104). -/
def ecLevelOf (code : BitVec 2) : EcLevel :=
  if code = 0#2 then .l else if code = 1#2 then .m else if code = 2#2 then .q else .h

/-- The 2-bit code of an EC level (R104). -/
def ecLevelCode : EcLevel → BitVec 2
  | .l => 0
  | .m => 1
  | .q => 2
  | .h => 3

/-- ERR.CODE (R250). -/
def errCode : ErrCode → BitVec 4
  | .noError => 0
  | .invalidInput => 1
  | .invalidLength => 2
  | .invalidVersion => 3
  | .internal => 4
  | .stageOverflow => 5
  | .badCommand => 6

/-- The value of the VERSION register: 0 for unset, else 1..40 (R30). -/
def versionValue : Option Version → Nat
  | none => 0
  | some v => versionNumber v

/-- A count in a register field [15:0], the reserved bits [31:16] reading 0 (R31, R32, R34, R35). Every
count fits with lawful parameters (R11; log 21). -/
def count16 (n : Nat) : Word := (BitVec.ofNat 16 n).setWidth 32

/-- ARG as the command being performed sees it: the latched value (R36, R237). With no command pending it
is the ARG register, which a CMD write would latch now (log 15). -/
def latchedArg (s : State) : Word :=
  match s.pending with
  | some p => p.arg
  | none => s.arg

/-- SET_EC_LEVEL's operand: `ARG[1:0]` as latched; ARG[31:2] are ignored (R105, R162). -/
def ecOperand (s : State) : EcLevel := ecLevelOf ((latchedArg s).extractLsb' 0 2)

/-- The value of an ASCII digit byte, `none` for any other byte (R109). -/
def digitValue (b : Byte) : Option Nat :=
  if 0x30 ≤ b.toNat ∧ b.toNat ≤ 0x39 then some (b.toNat - 0x30) else none

/-- `AV(b)`, the alphanumeric value of a byte, `none` where the table has no entry (R108). -/
def alnumValue (b : Byte) : Option Nat :=
  if 0x30 ≤ b.toNat ∧ b.toNat ≤ 0x39 then some (b.toNat - 0x30)
  else if 0x41 ≤ b.toNat ∧ b.toNat ≤ 0x5A then some (b.toNat - 0x41 + 10)
  else if b = 0x20#8 then some 36
  else if b = 0x24#8 then some 37
  else if b = 0x25#8 then some 38
  else if b = 0x2A#8 then some 39
  else if b = 0x2B#8 then some 40
  else if b = 0x2D#8 then some 41
  else if b = 0x2E#8 then some 42
  else if b = 0x2F#8 then some 43
  else if b = 0x3A#8 then some 44
  else none

end Sys2Proof.Machine
end

