-- ==== Sys2Proof/Machine/Flags.lean ====
section
/-! DEFINITION. The STATUS register (10_state.md R25, R37, R43). -/

namespace Sys2Proof.Machine

/-- STATUS.STATE at rest: 0 EMPTY, 2 VERSIONED, 3 UNRESOLVABLE (R37). CLASSIFIED (1) is never read at
rest. -/
def stateField (s : State) : BitVec 2 :=
  if s.content.isEmpty then 0 else if s.version.isSome then 2 else 3

/-- STATUS from its fields: BUSY bit 0, FAULT 1, STAGE_OVF 2, OVERRUN 3, then bits 7:4; 31:8 read 0
(R25). -/
def statusFrom (s : State) (high : BitVec 4) : Word :=
  ((high ++ BitVec.ofBool s.overrun ++ BitVec.ofBool s.stageOvf ++ BitVec.ofBool s.fault
    ++ BitVec.ofBool s.busy : BitVec 8)).setWidth 32

/-- STATUS[7:4] at rest: OUT_VALID, VERSION_VALID, STATE (R25). -/
def statusHigh (s : State) : BitVec 4 :=
  BitVec.ofBool s.outValid ++ BitVec.ofBool s.version.isSome ++ stateField s

/-- STATUS as a read returns it at rest (R25). -/
def statusIdle (s : State) : Word := statusFrom s (statusHigh s)

/-- STATUS as a read returns it while BUSY: BUSY, FAULT, STAGE_OVF and OVERRUN as they stand; bits 7:4 are
a free value (R37, R43, log 5). -/
def statusBusy (s : State) : Word := statusFrom s (Config.busyStatus s.draws)

end Sys2Proof.Machine
end

