-- ==== Sys2Proof/Machine/Ops.lean ====
section
/-! DEFINITION. The operations the meanings share: completing a command, failing, Fault(INTERNAL) and the
return from it (reset), the staging buffer, the response ports, and issuing a command. -/

namespace Sys2Proof.Machine

/-- The end of every command at its commit point: ERR and RESULT are written and BUSY returns to 0
(R26, R27, R41). -/
def complete (code : ErrCode) (result : Word) (s : State) : State :=
  { s with err := code, result := result, pending := none }

/-- `ERR <- NONE; RESULT <- result`. -/
def succeed (result : Word) (s : State) : State := complete .noError result s

/-- `raise Error(code)`: RESULT is 0 on every failure (R10, R27, R253). -/
def fail (code : ErrCode) (s : State) : State := complete code 0 s

/-- CLEAR_OUTPUT() (R210). -/
def clearOutput (s : State) : State := { s with out := [], outValid := false }

/-- Empty the staging buffer: `STAGE_LEN <- 0; STATUS.STAGE_OVF <- 0` (R148, R231). -/
def clearStage (s : State) : State := { s with stage := [], stageOvf := false }

/-- `raise Fault(INTERNAL)`, the one exception of the QRDE: FAULT is set, ERR is INTERNAL, RESULT is 0 and
the output is cleared; nothing is saved and nothing else changes (R253, R255). -/
def raiseInternal (s : State) : State := fail .internal (clearOutput { s with fault := true })

/-- The only way out of FAULT, and what `rst` and SOFT_RESET share: every piece of the spec's state takes
its reset value; the ROMs and parameters stay, and so do the input queue, the last response and the model's
own fields (R38, R232, R280, R281, log 14). -/
def resetState (s : State) : State :=
  { State.reset with
    params := s.params, rsp := s.rsp, host := s.host, draws := s.draws, hostFault := s.hostFault
    polled := s.polled }

/-- The FAULT gate of every command but SOFT_RESET: with FAULT set the command does nothing but
`ERR <- INTERNAL; RESULT <- 0` (R256). -/
def gated (body : State → State) (s : State) : State :=
  if s.fault then fail .internal s else body s

/-- The response to an accepted access (R39). -/
def respond (rdata : Word) (s : State) : State := { s with rsp := some ⟨rdata, false⟩ }

/-- Record a HOST fault; the first one stays (R258, log 6). -/
def noteHostFault (f : HostFault) (s : State) : State :=
  { s with hostFault := s.hostFault <|> some f }

/-- An access that is not a whole aligned word: `rsp_err` = 1, `rsp_rdata` = 0, no effect on any state
(R62). -/
def busError (s : State) : State :=
  noteHostFault .busError { s with rsp := some ⟨0, true⟩ }

/-- A CMD, ARG or STAGE_DATA write while BUSY: dropped, with no effect but `OVERRUN <- 1` (R286). -/
def dropWrite (s : State) : State :=
  noteHostFault .writeWhileBusy (respond 0 { s with overrun := true })

/-- `MemWrite(STAGE, STAGE_LEN, 1, b); STAGE_LEN <- STAGE_LEN + 1` (R146). -/
def appendStage (b : Byte) (s : State) : State := { s with stage := s.stage ++ [b] }

/-- Count one draw of a free value (log 17). -/
def drawn (s : State) : State := { s with draws := s.draws + 1 }

/-- Command issue, a CMD write (R237): while BUSY it is dropped; else the opcode and ARG are latched and
BUSY is 1 until the commit, `T_CMD` cycles later. `T_CMD - 1` is a free value (log 3). Performed or dropped,
it is the HOST's last CMD write, and no poll has followed it yet (R291, log 23). -/
def issue (opcode : BitVec 8) (s : State) : State :=
  if s.busy then dropWrite { s with polled := false }
  else respond 0 (drawn
    { s with pending := some ⟨opcode, s.arg, Config.tCmd opcode s.draws⟩, polled := false })

/-- Record the poll of R291: a read of STATUS at rest, which returns BUSY = 0 (log 23). -/
def notePoll (i : Instr) (s : State) : State :=
  { s with polled := s.polled || (!s.busy && decide (i = .read 0x00C#13)) }

/-- The command instructions, which are issued to CMD and performed at their commit point (R100); the
others are port operations, performed when the bus accepts them. -/
def isCommand : Instr → Bool
  | .nop | .setContent | .setEcLevel | .getVersion | .getFinalData | .validateLength | .stageClear
  | .softReset | .illegal08 _ | .illegal10 _ | .illegal20 _ | .illegal40 _ | .illegal80 _ => true
  | .stageData _ | .argWrite _ | .roWrite _ _ | .read _ => false

/-- The buffers hold no more than their size (R31, R32, R34). This is the form every memory operation
keeps: a list holds exactly the bytes below its length, so equal buffers are equal lists (log 9). -/
def Memory.wf (s : State) : Bool :=
  decide (s.stage.length ≤ s.params.stageDepth) && decide (s.content.length ≤ s.params.stageDepth)
    && decide (s.out.length ≤ s.params.outWords * 32)

end Sys2Proof.Machine
end

