-- ==== Sys2Proof/Machine/Resolver.lean ====
section
/-! DEFINITION. The version resolver: RESOLVE, SET_EC_LEVEL, GET_VERSION (41_version_resolver.md). -/

namespace Sys2Proof.Machine

/-- RESOLVE(n, m, e): the first version, in increasing order, whose capacity is at least n; none if there
is none, and none for n = 0 (R160). -/
def resolve (P : Params) (n : Nat) (m : Mode) (e : EcLevel) : Option Version :=
  if n = 0 then none else (List.finRange 40).find? fun v => decide (n ≤ P.cap v e m)

/-- SET_EC_LEVEL past the FAULT gate (R162). -/
def setEcLevelBody (s : State) : State :=
  let e := ecOperand s
  if ceilLevel e < s.content.length then fail .invalidLength s
  else
    let version := resolve s.params s.content.length s.mode e
    succeed (BitVec.ofNat 32 (versionValue version))
      (clearOutput { s with ecLevel := e, version := version })

/-- SET_EC_LEVEL (R162). -/
def execSetEcLevel (s : State) : Result := .next (gated setEcLevelBody s)

/-- GET_VERSION (R163). -/
def execGetVersion (s : State) : Result :=
  .next (gated (fun s => succeed (BitVec.ofNat 32 (versionValue s.version)) s) s)

end Sys2Proof.Machine
end

