-- ==== Sys2Proof/Machine/Classifier.lean ====
section
/-! DEFINITION. The input classifier: CLASSIFY, the staging port, SET_CONTENT, VALIDATE_LENGTH
(40_classifier.md). -/

namespace Sys2Proof.Machine

/-- CLASSIFY(c), first match wins (R140). It is never applied to the empty sequence. -/
def classify (c : List Byte) : Mode :=
  if c.all fun b => (digitValue b).isSome then .numeric
  else if c.all fun b => (alnumValue b).isSome then .alphanumeric
  else .byte

/-- LEN_OK(n, m) (R145). -/
def lenOk (n : Nat) (m : Mode) : Bool := decide (n ≤ ceilMode m)

/-- The commit of non-empty staged bytes (R148). -/
def commitStage (s : State) : State :=
  let m := classify s.stage
  succeed ((modeCode m).setWidth 32)
    (clearStage (clearOutput
      { s with
        content := s.stage, mode := m, version := resolve s.params s.stage.length m s.ecLevel }))

/-- SET_CONTENT past the FAULT gate (R148), STAGE_OVERFLOW tested before INVALID_INPUT (R252). -/
def setContentBody (s : State) : State :=
  if s.stageOvf then fail .stageOverflow (clearStage s)
  else if s.stage.isEmpty then fail .invalidInput s
  else commitStage s

/-- SET_CONTENT (R148). -/
def execSetContent (s : State) : Result := .next (gated setContentBody s)

/-- VALIDATE_LENGTH past the FAULT gate (R149). -/
def validateLengthBody (s : State) : State :=
  if lenOk s.content.length s.mode then succeed 0 s else fail .invalidLength s

/-- VALIDATE_LENGTH (R149). -/
def execValidateLength (s : State) : Result := .next (gated validateLengthBody s)

/-- A write to STAGE_DATA (R146); the FAULT gate does not apply. -/
def execStageData (b : Byte) (s : State) : Result :=
  .next (
    if s.busy then dropWrite s
    else if s.stage.length < s.params.stageDepth then respond 0 (appendStage b s)
    else respond 0 { s with stageOvf := true })

end Sys2Proof.Machine
end

