-- ==== Sys2Proof/Machine/Control.lean ====
section
/-! DEFINITION. The control commands at their commit point: NOP, STAGE_CLEAR, SOFT_RESET and the illegal
opcodes (44_control.md). -/

namespace Sys2Proof.Machine

/-- NOP (R230). -/
def execNop (s : State) : Result := .next (gated (succeed 0) s)

/-- STAGE_CLEAR (R231). -/
def execStageClear (s : State) : Result := .next (gated (fun s => succeed 0 (clearStage s)) s)

/-- SOFT_RESET (R232); it is not gated (R256). -/
def execSoftReset (s : State) : Result := .next (resetState s)

/-- `ERR <- BAD_COMMAND; RESULT <- 0` (R233). -/
def badCommand (s : State) : State := gated (fail .badCommand) s

/-- ILLEGAL, opcodes 0x08-0x0F (R233). -/
def execIllegal08 (_low : BitVec 3) (s : State) : Result := .next (badCommand s)

/-- ILLEGAL, opcodes 0x10-0x1F (R233). -/
def execIllegal10 (_low : BitVec 4) (s : State) : Result := .next (badCommand s)

/-- ILLEGAL, opcodes 0x20-0x3F (R233). -/
def execIllegal20 (_low : BitVec 5) (s : State) : Result := .next (badCommand s)

/-- ILLEGAL, opcodes 0x40-0x7F (R233). -/
def execIllegal40 (_low : BitVec 6) (s : State) : Result := .next (badCommand s)

/-- ILLEGAL, opcodes 0x80-0xFF (R233). -/
def execIllegal80 (_low : BitVec 7) (s : State) : Result := .next (badCommand s)

end Sys2Proof.Machine
end

