-- ==== Sys2Proof/Machine/Packer.lean ====
section
/-! DEFINITION. The mode-specific bit packers (42_bit_packers.md). A packer answers `none` where it raises
Fault(INTERNAL) (R183). -/

namespace Sys2Proof.Machine

/-- The field of one group of digits: its decimal value, leading zeros allowed, in 10, 7 or 4 bits for 3,
2 or 1 digits (R181). -/
def numGroup (digits : List Nat) : Bits :=
  binW (match digits.length with
    | 3 => 10
    | 2 => 7
    | _ => 4) (digits.foldl (fun v d => 10 * v + d) 0)

/-- PACK_NUM(c) (R181). -/
def packNum : List Byte → Option (List Bits)
  | [] => some []
  | [a] => do return [numGroup [← digitValue a]]
  | [a, b] => do return [numGroup [← digitValue a, ← digitValue b]]
  | a :: b :: c :: rest => do
    return numGroup [← digitValue a, ← digitValue b, ← digitValue c] :: (← packNum rest)

/-- PACK_ALNUM(c): a pair is `AV(c1) * 45 + AV(c2)` in 11 bits, a trailing character its value in 6
(R182). -/
def packAlnum : List Byte → Option (List Bits)
  | [] => some []
  | [a] => do return [binW 6 (← alnumValue a)]
  | a :: b :: rest => do
    return binW 11 ((← alnumValue a) * 45 + (← alnumValue b)) :: (← packAlnum rest)

/-- PACK_BYTE(c): each byte is one 8-bit field (R184). -/
def packByte (c : List Byte) : List Bits := c.map fun b => binW 8 b.toNat

/-- PACK(c, m) (R180). -/
def pack (c : List Byte) : Mode → Option (List Bits)
  | .numeric => packNum c
  | .alphanumeric => packAlnum c
  | .byte => some (packByte c)

/-- DATA(c, m): the groups concatenated in list order (R180). -/
def data (c : List Byte) (m : Mode) : Option Bits := (pack c m).map List.flatten

/-- DATA_BITS(m, n), the packed length of n characters (R185). -/
def dataBits (m : Mode) (n : Nat) : Nat :=
  match m with
  | .numeric => 10 * (n / 3) + (match n % 3 with
    | 0 => 0
    | 1 => 4
    | _ => 7)
  | .alphanumeric => 11 * (n / 2) + 6 * (n % 2)
  | .byte => 8 * n

end Sys2Proof.Machine
end

