-- ==== Sys2Proof/Machine/Formatter.lean ====
section
/-! DEFINITION. The indicator and terminator formatter: FINAL and GET_FINAL_DATA (43_formatter.md). -/

namespace Sys2Proof.Machine

/-- CCI_W(v, m), the width of the character-count indicator (30_encoding.md R110). -/
def cciWidth (v : Version) (m : Mode) : Nat :=
  if versionNumber v ≤ 9 then
    match m with
    | .numeric => 10
    | .alphanumeric => 9
    | .byte => 8
  else if versionNumber v ≤ 26 then
    match m with
    | .numeric => 12
    | .alphanumeric => 11
    | .byte => 16
  else
    match m with
    | .numeric => 14
    | .alphanumeric => 13
    | .byte => 16

/-- required_bits(v, e) (R204). -/
def requiredBits (P : Params) (v : Version) (e : EcLevel) : Nat := 8 * P.dcw v e

/-- TERM_LEN(L, r) (R205). -/
def termLen (len required : Nat) : Nat := if required ≤ len then 0 else min 4 (required - len)

/-- FINAL(c, m, e, v) (R206): mode indicator, character-count indicator, data, terminator. `none` where it
raises Fault(INTERNAL): the count does not fit its field (R202), or a packer does (R183). -/
def final (P : Params) (c : List Byte) (m : Mode) (e : EcLevel) (v : Version) : Option Bits :=
  let w := cciWidth v m
  if 2 ^ w ≤ c.length then none
  else
    match data c m with
    | none => none
    | some d =>
      let s := binW 4 (modeCode m).toNat ++ binW w c.length ++ d
      some (s ++ List.replicate (termLen s.length (requiredBits P v e)) false)

/-- GET_FINAL_DATA past the FAULT gate (R209). -/
def getFinalDataBody (s : State) : State :=
  match s.version with
  | none => fail .invalidVersion (clearOutput s)
  | some v =>
    match final s.params s.content s.mode s.ecLevel v with
    | none => raiseInternal s
    | some bits =>
      if s.params.outWords * 32 < bits.length then raiseInternal s
      else succeed (BitVec.ofNat 32 bits.length) { s with out := bits, outValid := true }

/-- GET_FINAL_DATA (R209). -/
def execGetFinalData (s : State) : Result := .next (gated getFinalDataBody s)

end Sys2Proof.Machine
end

