-- ==== Sys2Proof/Machine/Ports.lean ====
section
/-! DEFINITION. The plain register accesses: READ, ARG_WRITE, RO_WRITE (44_control.md R234-R236), and what
each place of the HOST block reads as (10_state.md R22-R35, 20_memory.md R60-R64). -/

namespace Sys2Proof.Machine

/-- OUT[i]: the buffer's bit i, 0 at or past OUT_BITLEN (R34, R64). -/
def outBit (s : State) (i : Nat) : Bool := s.out.getD i false

/-- Output-window word k: stream bit 32k + j is bit 31 - j (R64); a word at or past OUT_WORDS reads 0
(R61). -/
def outWord (s : State) (k : Nat) : Word :=
  if k < s.params.outWords then
    BitVec.ofNat 32 (bitsToNat ((List.range 32).map fun j => outBit s (32 * k + j)))
  else 0

/-- REQ_BITS: a live read of the data-codeword ROM, 0 while VERSION = 0 (R35). -/
def reqBits (s : State) : Nat :=
  match s.version with
  | none => 0
  | some v => requiredBits s.params v s.ecLevel

/-- The identification word, "QRDE" (R22). -/
def idWord : Word := 0x51524445

/-- What a place reads as at rest (R22-R35, R61, R64). -/
def readLoc (s : State) : Loc → Word
  | .id => idWord
  | .cmd => 0
  | .arg => s.arg
  | .status => statusIdle s
  | .err => (errCode s.err).setWidth 32
  | .result => s.result
  | .mode => (modeCode s.mode).setWidth 32
  | .ecLevel => (ecLevelCode s.ecLevel).setWidth 32
  | .version => BitVec.ofNat 32 (versionValue s.version)
  | .contentLen => count16 s.content.length
  | .stageLen => count16 s.stage.length
  | .stageData => 0
  | .outBitlen => count16 s.out.length
  | .reqBits => count16 (reqBits s)
  | .reserved => 0
  | .out k => outWord s k

/-- A read while BUSY: ID is its constant, STATUS has its four bits, a reserved offset or a window word at or
past OUT_WORDS is 0 (R61), and any other register or window word is a free value (R43, R234, log 4). -/
def readBusy (s : State) (loc : Loc) : State :=
  match loc with
  | .id => respond idWord s
  | .status => respond (statusBusy s) (drawn s)
  | .reserved => respond 0 s
  | .out k =>
    if k < s.params.outWords then respond (Config.busyRead s.draws) (drawn s) else respond 0 s
  | .cmd | .arg | .err | .result | .mode | .ecLevel | .version | .contentLen | .stageLen | .stageData
  | .outBitlen | .reqBits => respond (Config.busyRead s.draws) (drawn s)

/-- READ (R234). A misaligned offset, which no decoded READ has, is a bus error (R62, log 18). -/
def execRead (off : Offset) (s : State) : Result :=
  .next (
    if !aligned off then busError s
    else if s.busy then readBusy s (locOf off)
    else respond (readLoc s (locOf off)) s)

/-- ARG_WRITE (R235); the FAULT gate does not apply (R256). -/
def execArgWrite (data : Word) (s : State) : Result :=
  .next (if s.busy then dropWrite s else respond 0 { s with arg := data })

/-- RO_WRITE: ignored, whatever BUSY is (R236, R61). -/
def execRoWrite (_off : Offset) (_data : Word) (s : State) : Result := .next (respond 0 s)

end Sys2Proof.Machine
end

