-- ==== Sys2Proof/Machine/Dispatch.lean ====
section
/-! DEFINITION. The meaning of each instruction. A command's meaning is its effect at the commit point
(10_state.md R41, log 1). -/

namespace Sys2Proof.Machine

def exec (i : Instr) (s : State) : Host.Outcome State Fault Refusal :=
  match i with
  | .nop => Sys2Proof.Machine.execNop s
  | .setContent => Sys2Proof.Machine.execSetContent s
  | .setEcLevel => Sys2Proof.Machine.execSetEcLevel s
  | .getVersion => Sys2Proof.Machine.execGetVersion s
  | .getFinalData => Sys2Proof.Machine.execGetFinalData s
  | .validateLength => Sys2Proof.Machine.execValidateLength s
  | .stageClear => Sys2Proof.Machine.execStageClear s
  | .softReset => Sys2Proof.Machine.execSoftReset s
  | .illegal08 low => Sys2Proof.Machine.execIllegal08 low s
  | .illegal10 low => Sys2Proof.Machine.execIllegal10 low s
  | .illegal20 low => Sys2Proof.Machine.execIllegal20 low s
  | .illegal40 low => Sys2Proof.Machine.execIllegal40 low s
  | .illegal80 low => Sys2Proof.Machine.execIllegal80 low s
  | .stageData b => Sys2Proof.Machine.execStageData b s
  | .argWrite data => Sys2Proof.Machine.execArgWrite data s
  | .roWrite off data => Sys2Proof.Machine.execRoWrite off data s
  | .read off => Sys2Proof.Machine.execRead off s

end Sys2Proof.Machine
end

