-- ==== Sys2Proof/Machine/Step.lean ====
section
/-! DEFINITION. One step of the machine: one cycle of the outside, or the commit of the pending command
(10_state.md R40, R41, log 2). -/

namespace Sys2Proof.Machine

/-- The HOST's access r: not a whole aligned word, it is a bus error (R62); a command word is issued
(R237); a port operation is performed (R146, R234-R236), and a poll is recorded (R291). -/
def accept (r : Request) (s : State) : Result :=
  match decodeRequest r with
  | .error _ => .next (busError s)
  | .ok i => if isCommand i then .next (issue (opcodeOf r.wdata) s) else exec i (notePoll i s)

/-- The outside's next cycle. With nothing left in the queue the QRDE idles and holds every register
(R264). -/
def hostTurn (s : State) : Result :=
  match s.host with
  | [] => .next s
  | .idle :: rest => .next { s with host := rest }
  | .rst :: rest => .next (resetState { s with host := rest })
  | .access r :: rest => accept r { s with host := rest }

/-- CORE's turn: a command with no cycle left commits; with a cycle left, the outside has it. -/
def coreTurn (p : Pending) (s : State) : Result :=
  match p.remaining with
  | 0 => exec (decodeOpcode p.opcode) s
  | k + 1 => hostTurn { s with pending := some { p with remaining := k } }

/-- One step. `rst` comes first: it abandons a pending command (R280, R290). -/
def step (s : State) : Host.Outcome State Fault Refusal :=
  match s.host with
  | .rst :: rest => .next (resetState { s with host := rest })
  | _ =>
    match s.pending with
    | some p => coreTurn p s
    | none => hostTurn s

/-- The input queue with nothing at its head that would come before the commit. -/
def holdReset (host : List HostEvent) : List HostEvent :=
  match host with
  | .rst :: rest => .idle :: .rst :: rest
  | other => other

/-- `s` with the request's instruction as the very next to run: a command word is placed as the pending
command with no cycle left, with ARG latched and no poll recorded, as its CMD write would; any other request is placed at the
head of the input queue, with one more cycle for a command that is pending (log 7, log 11). -/
def State.withRequest (s : State) (r : Request) : State :=
  match decodeRequest r with
  | .ok i =>
    if isCommand i then
      { s with pending := some ⟨opcodeOf r.wdata, s.arg, 0⟩, host := holdReset s.host, polled := false }
    else
      { s with
        pending := s.pending.map fun p => { p with remaining := p.remaining + 1 }
        host := .access r :: s.host }
  | .error _ =>
    { s with
      pending := s.pending.map fun p => { p with remaining := p.remaining + 1 }
      host := .access r :: s.host }

/-- `s` with an instruction word, numbered as spec/opcode_table.json numbers it, as the next to run. -/
def State.withFetchWord (s : State) (nbits w : Nat) : State := s.withRequest (tableRequest nbits w)

end Sys2Proof.Machine
end

