-- ==== Sys2Proof/Safety.lean ====
section
/-! DEFINITION. What the claims speak of: lawful parameters (00_scope.md R7, 20_memory.md R72, R73), the
invariants of 10_state.md R42, a run free of HOST faults (60_exceptions.md R258), and the events that reset
the machine or commit a given command. -/

namespace Sys2Proof

open Machine

/-- The constraints on the parameters. `outWords_le` is the size of the window in the address map of R60
(log 21); the others are R7, R68, R69, R72(a), R72(b) and R73. -/
structure Params.Lawful (P : Params) : Prop where
  stageDepth_ge : 7089 ≤ P.stageDepth
  stageDepth_le : P.stageDepth ≤ 65535
  outWords_le : P.outWords ≤ 1024
  cap_lt : ∀ v e m, P.cap v e m < 2 ^ 16
  dcw_lt : ∀ v e, 8 * P.dcw v e < 2 ^ 16
  /-- R72(a): capacities strictly increase with the version. -/
  cap_version : ∀ v w : Version, v.val + 1 = w.val → ∀ e m, P.cap v e m < P.cap w e m
  /-- R72(b): capacities strictly decrease as the level strengthens. -/
  cap_level : ∀ v m,
    P.cap v .m m < P.cap v .l m ∧ P.cap v .q m < P.cap v .m m ∧ P.cap v .h m < P.cap v .q m
  /-- R73(i). -/
  cci_fits : ∀ v e m, P.cap v e m < 2 ^ cciWidth v m
  /-- R73(ii), its first half. -/
  data_fits : ∀ v e m, 4 + cciWidth v m + dataBits m (P.cap v e m) ≤ 8 * P.dcw v e
  /-- R73(ii), its second half, and R7's constraint on OUT_WORDS. -/
  out_fits : ∀ v e, 8 * P.dcw v e ≤ P.outWords * 32

namespace Machine

/-- The invariants of R42 (a) to (d), the sizes of the buffers (R31, R32, R34), that an overflow means
a full stage (R146, R252), and that a recorded poll means no pending command (log 23). -/
structure Inv (s : State) : Prop where
  memory : Memory.wf s = true
  overflow : s.stageOvf = true → s.stage.length = s.params.stageDepth
  /-- R42(a). -/
  empty : s.content = [] → s.mode = .numeric ∧ s.version = none
  /-- R42(b). -/
  resolved : s.content ≠ [] → s.mode = classify s.content ∧
    s.version = resolve s.params s.content.length s.mode s.ecLevel
  /-- R42(c). -/
  output : s.outValid = true →
    ∃ v, s.version = some v ∧ final s.params s.content s.mode s.ecLevel v = some s.out
  /-- R42(d). -/
  noOutput : s.outValid = false → s.out = []
  /-- The model's record of R291: after a poll that returned BUSY = 0 no command is pending until the next CMD
  write. -/
  polled : s.polled = true → s.pending = none

/-- No HOST fault so far: the runs R258 would have claims speak of. -/
def HostSafe (s : State) : Prop := s.hostFault = none

/-- The next step is a reset by `rst` (R280). -/
def ResetsNext (s : State) : Prop := s.host.head? = some .rst

/-- The next step commits the command of this opcode (R41). -/
def CommitsNext (opcode : BitVec 8) (s : State) : Prop :=
  ¬ ResetsNext s ∧ ∃ arg, s.pending = some ⟨opcode, arg, 0⟩

/-- The end of a HOST program's run (70_reset_and_hazards.md R291): its last access is performed, and a read of
STATUS performed after its last CMD write returned BUSY = 0 (log 23). -/
def RunEnded (s : State) : Prop := (∀ r, HostEvent.access r ∉ s.host) ∧ s.polled = true

/-- The HOST's write `W off w` of a whole word (R113). -/
def writeWord (off : Offset) (w : Word) : Request := ⟨true, off, 2#2, w⟩

end Machine

end Sys2Proof
end

