-- ==== Sys2Proof/Certificates/Slice0/Obligations.lean ====
section
/-! DEFINITION. The statements about the QRDE, for the provers. A statement about a command speaks of exec
at the command's commit point (10_state.md R41); `pending := none` in a next state is BUSY returning to 0.
Where a next state `t` has `hostFault := t.hostFault`, `draws := t.draws` or `polled := t.polled`, the statement
says nothing about these fields, which are the model's own (log 6, log 17, log 23). -/

open Sys2Proof Sys2Proof.Machine

/-- NOP, R230: its word, its effect at the commit point (nothing but ERR and RESULT), and that it holds BUSY
like every command: issued at rest it is pending, with some number of cycles left. -/
def Obligations.NopWritesErrAndResultOnly : Prop :=
  decodeRequest (writeWord 0x004#13 0x00000000#32) = .ok .nop ∧
  (∀ s : State, s.fault = false →
    exec .nop s = .next { s with err := .noError, result := 0, pending := none }) ∧
  (∀ (s : State) (rest : List HostEvent), s.pending = none →
    s.host = .access (writeWord 0x004#13 0x00000000#32) :: rest →
    ∃ t n, step s = .next t ∧ t = { s with
      host := rest, pending := some ⟨0x00#8, s.arg, n⟩, rsp := some ⟨0, false⟩, draws := t.draws
      polled := t.polled })

/-- SET_CONTENT, R148: the word, and its three outcomes past the FAULT gate. -/
def Obligations.SetContentCommitsTheStage : Prop :=
  decodeRequest (writeWord 0x004#13 0x00000001#32) = .ok .setContent ∧
  ∀ s : State, s.fault = false →
    (s.stageOvf = true →
      exec .setContent s = .next { s with
        stage := [], stageOvf := false, err := .stageOverflow, result := 0, pending := none }) ∧
    (s.stageOvf = false → s.stage = [] →
      exec .setContent s = .next { s with err := .invalidInput, result := 0, pending := none }) ∧
    (s.stageOvf = false → s.stage ≠ [] →
      exec .setContent s = .next { s with
        content := s.stage
        mode := classify s.stage
        version := resolve s.params s.stage.length (classify s.stage) s.ecLevel
        out := [], outValid := false
        stage := [], stageOvf := false
        err := .noError
        result := (modeCode (classify s.stage)).setWidth 32
        pending := none })

/-- SET_EC_LEVEL, R162: the word, the ceilings, the operand ARG[1:0] as latched, and its two outcomes past
the FAULT gate. -/
def Obligations.SetEcLevelCommitsOrRejects : Prop :=
  decodeRequest (writeWord 0x004#13 0x00000002#32) = .ok .setEcLevel ∧
  (ecLevelOf 0#2 = .l ∧ ecLevelOf 1#2 = .m ∧ ecLevelOf 2#2 = .q ∧ ecLevelOf 3#2 = .h) ∧
  (ceilLevel .l = 7089 ∧ ceilLevel .m = 5596 ∧ ceilLevel .q = 3993 ∧ ceilLevel .h = 3057) ∧
  (∀ (s : State) (p : Pending), s.pending = some p → latchedArg s = p.arg) ∧
  ∀ (s : State) (e : EcLevel), s.fault = false → ecLevelOf ((latchedArg s).extractLsb' 0 2) = e →
    (ceilLevel e < s.content.length →
      exec .setEcLevel s = .next { s with err := .invalidLength, result := 0, pending := none }) ∧
    (s.content.length ≤ ceilLevel e →
      exec .setEcLevel s = .next { s with
        ecLevel := e
        version := resolve s.params s.content.length s.mode e
        out := [], outValid := false
        err := .noError
        result := BitVec.ofNat 32 (versionValue (resolve s.params s.content.length s.mode e))
        pending := none })

/-- GET_VERSION, R163: the word, RESULT is the version (0 for none, else 1..40), nothing else changes, and
asking twice gives the same RESULT. -/
def Obligations.GetVersionReturnsVersion : Prop :=
  decodeRequest (writeWord 0x004#13 0x00000003#32) = .ok .getVersion ∧
  (versionValue none = 0 ∧ ∀ v : Version, versionValue (some v) = v.val + 1) ∧
  (∀ s : State, s.fault = false →
    exec .getVersion s = .next { s with
      err := .noError, result := BitVec.ofNat 32 (versionValue s.version), pending := none }) ∧
  (∀ s t u : State, s.fault = false → exec .getVersion s = .next t → exec .getVersion t = .next u →
    u.result = t.result)

/-- GET_FINAL_DATA, R209: the word, and its outcomes past the FAULT gate: no version, Fault(INTERNAL) from
FINAL or from the size of the output, or the output. -/
def Obligations.GetFinalDataBuildsOutputOrFails : Prop :=
  decodeRequest (writeWord 0x004#13 0x00000004#32) = .ok .getFinalData ∧
  ∀ s : State, s.fault = false →
    (s.version = none →
      exec .getFinalData s = .next { s with
        out := [], outValid := false, err := .invalidVersion, result := 0, pending := none }) ∧
    (∀ v, s.version = some v → final s.params s.content s.mode s.ecLevel v = none →
      exec .getFinalData s = .next { s with
        fault := true, out := [], outValid := false, err := .internal, result := 0, pending := none }) ∧
    (∀ v bits, s.version = some v → final s.params s.content s.mode s.ecLevel v = some bits →
      s.params.outWords * 32 < bits.length →
      exec .getFinalData s = .next { s with
        fault := true, out := [], outValid := false, err := .internal, result := 0, pending := none }) ∧
    (∀ v bits, s.version = some v → final s.params s.content s.mode s.ecLevel v = some bits →
      bits.length ≤ s.params.outWords * 32 →
      exec .getFinalData s = .next { s with
        out := bits, outValid := true, err := .noError
        result := BitVec.ofNat 32 bits.length, pending := none })

/-- VALIDATE_LENGTH, R149: the word, the ceilings of the stored mode, inclusive, and nothing but ERR and
RESULT written. -/
def Obligations.ValidateLengthTestsModeCeiling : Prop :=
  decodeRequest (writeWord 0x004#13 0x00000005#32) = .ok .validateLength ∧
  (ceilMode .numeric = 7089 ∧ ceilMode .alphanumeric = 4296 ∧ ceilMode .byte = 2953) ∧
  ∀ s : State, s.fault = false →
    (s.content.length ≤ ceilMode s.mode →
      exec .validateLength s = .next { s with err := .noError, result := 0, pending := none }) ∧
    (ceilMode s.mode < s.content.length →
      exec .validateLength s = .next { s with err := .invalidLength, result := 0, pending := none })

/-- STAGE_CLEAR, R231: the word, and the stage emptied with STAGE_OVF cleared. -/
def Obligations.StageClearEmptiesTheStage : Prop :=
  decodeRequest (writeWord 0x004#13 0x00000006#32) = .ok .stageClear ∧
  ∀ s : State, s.fault = false →
    exec .stageClear s = .next { s with
      stage := [], stageOvf := false, err := .noError, result := 0, pending := none }

/-- SOFT_RESET, R232: the word, and every piece of the spec's state at the value of R38 from any state,
FAULT set or not; the parameters with the ROMs stay, and so does what the HOST does next. -/
def Obligations.SoftResetRestoresResetValues : Prop :=
  decodeRequest (writeWord 0x004#13 0x00000007#32) = .ok .softReset ∧
  ∀ s : State, ∃ t, exec .softReset s = .next t ∧ t = { s with
    content := [], mode := .numeric, ecLevel := .m, version := none
    stage := [], stageOvf := false, fault := false, overrun := false
    outValid := false, out := [], arg := 0, err := .noError, result := 0, pending := none
    rsp := t.rsp, draws := t.draws, hostFault := t.hostFault, polled := t.polled }

/-- The illegal opcodes, R233: every CMD word with OPCODE at least 0x08, whatever its bits 31:8, ends with
BAD_COMMAND and changes nothing else; said for each of the five constructors too. -/
def Obligations.IllegalOpcodesReportBadCommand : Prop :=
  (∀ (w : Word) (s : State), 8 ≤ (w.extractLsb' 0 8).toNat → s.fault = false →
    ∃ i, decodeRequest (writeWord 0x004#13 w) = .ok i ∧
      exec i s = .next { s with err := .badCommand, result := 0, pending := none }) ∧
  (∀ (low : BitVec 3) (s : State), s.fault = false →
    exec (.illegal08 low) s = .next { s with err := .badCommand, result := 0, pending := none }) ∧
  (∀ (low : BitVec 4) (s : State), s.fault = false →
    exec (.illegal10 low) s = .next { s with err := .badCommand, result := 0, pending := none }) ∧
  (∀ (low : BitVec 5) (s : State), s.fault = false →
    exec (.illegal20 low) s = .next { s with err := .badCommand, result := 0, pending := none }) ∧
  (∀ (low : BitVec 6) (s : State), s.fault = false →
    exec (.illegal40 low) s = .next { s with err := .badCommand, result := 0, pending := none }) ∧
  (∀ (low : BitVec 7) (s : State), s.fault = false →
    exec (.illegal80 low) s = .next { s with err := .badCommand, result := 0, pending := none })

/-- STAGE_DATA, R146: bits 7:0 are the byte; it is appended while there is room, dropped with STAGE_OVF when
the stage is full, dropped with OVERRUN while BUSY; nothing else changes, FAULT set or not. -/
def Obligations.StageDataAppendsOrDrops : Prop :=
  (∀ w : Word, decodeRequest (writeWord 0x02C#13 w) = .ok (.stageData (w.extractLsb' 0 8))) ∧
  ∀ (b : Byte) (s : State),
    (s.pending = none → s.stage.length < s.params.stageDepth →
      exec (.stageData b) s = .next { s with stage := s.stage ++ [b], rsp := some ⟨0, false⟩ }) ∧
    (s.pending = none → s.params.stageDepth ≤ s.stage.length →
      exec (.stageData b) s = .next { s with stageOvf := true, rsp := some ⟨0, false⟩ }) ∧
    (s.pending ≠ none →
      ∃ t, exec (.stageData b) s = .next t ∧ t = { s with
        overrun := true, rsp := some ⟨0, false⟩, hostFault := t.hostFault })

/-- ARG_WRITE, R235: all 32 bits stored at rest, dropped with OVERRUN while BUSY. -/
def Obligations.ArgWriteStoresOrDrops : Prop :=
  (∀ w : Word, decodeRequest (writeWord 0x008#13 w) = .ok (.argWrite w)) ∧
  ∀ (d : Word) (s : State),
    (s.pending = none →
      exec (.argWrite d) s = .next { s with arg := d, rsp := some ⟨0, false⟩ }) ∧
    (s.pending ≠ none →
      ∃ t, exec (.argWrite d) s = .next t ∧ t = { s with
        overrun := true, rsp := some ⟨0, false⟩, hostFault := t.hostFault })

/-- RO_WRITE, R236: a write to any of the read-only registers or to an output-window word decodes to RO_WRITE
and is ignored: no bus error, no change of state, whatever BUSY is. (A write to a reserved offset is in
`ReservedOffsetsReadZeroIgnoreWrites`.) -/
def Obligations.ReadOnlyWritesAreIgnored : Prop :=
  ∀ (off : Offset) (w : Word),
    (off ∈ ([0x000#13, 0x00C#13, 0x010#13, 0x014#13, 0x018#13, 0x01C#13, 0x020#13, 0x024#13, 0x028#13,
        0x030#13, 0x034#13] : List Offset)
      ∨ (0x1000 ≤ off.toNat ∧ aligned off = true)) →
    decodeRequest (writeWord off w) = .ok (.roWrite off w) ∧
    ∀ s : State, exec (.roWrite off w) s = .next { s with rsp := some ⟨0, false⟩ }

/-- READ, R234: at rest the HOST gets what the place holds, with no bus error and no side effect; CMD,
STAGE_DATA and the reserved offsets give 0. While BUSY it gets some value, but for ID and STATUS. -/
def Obligations.ReadReturnsRegisterOrFreeValue : Prop :=
  (∀ off : Offset, aligned off = true → decodeRequest ⟨false, off, 2#2, 0#32⟩ = .ok (.read off)) ∧
  (∀ (off : Offset) (s : State), aligned off = true → s.pending = none →
    exec (.read off) s = .next { s with rsp := some ⟨readLoc s (locOf off), false⟩ }) ∧
  (∀ (off : Offset) (s : State), aligned off = true → s.pending ≠ none → off ≠ 0x000#13 → off ≠ 0x00C#13 →
    ∃ t w, exec (.read off) s = .next t ∧ t = { s with rsp := some ⟨w, false⟩, draws := t.draws }) ∧
  ∀ s : State, readLoc s (locOf 0x004#13) = 0 ∧ readLoc s (locOf 0x02C#13) = 0 ∧
    ∀ off : Offset, 0x038 ≤ off.toNat → off.toNat ≤ 0xFFC → readLoc s (locOf off) = 0

/-- The value of each register at its offset at rest, as 10_state.md R22 to R35 give it (STATUS has a
statement of its own). Counts fit their 16-bit field with lawful parameters; otherwise the field holds the
low 16 bits, the model's choice (log 21). -/
def Obligations.RegisterOffsetsReadTheirState : Prop :=
  ∀ s : State,
    readLoc s (locOf 0x000#13) = 0x51524445#32 ∧
    readLoc s (locOf 0x008#13) = s.arg ∧
    (readLoc s (locOf 0x010#13)).toNat = (match s.err with
      | .noError => 0 | .invalidInput => 1 | .invalidLength => 2 | .invalidVersion => 3
      | .internal => 4 | .stageOverflow => 5 | .badCommand => 6) ∧
    readLoc s (locOf 0x014#13) = s.result ∧
    (readLoc s (locOf 0x018#13)).toNat = (match s.mode with
      | .numeric => 1 | .alphanumeric => 2 | .byte => 4) ∧
    (readLoc s (locOf 0x01C#13)).toNat = (match s.ecLevel with
      | .l => 0 | .m => 1 | .q => 2 | .h => 3) ∧
    (readLoc s (locOf 0x020#13)).toNat = (match s.version with
      | none => 0 | some v => v.val + 1) ∧
    (readLoc s (locOf 0x024#13)).toNat = s.content.length % 2 ^ 16 ∧
    (readLoc s (locOf 0x028#13)).toNat = s.stage.length % 2 ^ 16 ∧
    (readLoc s (locOf 0x030#13)).toNat = s.out.length % 2 ^ 16 ∧
    (readLoc s (locOf 0x034#13)).toNat = (match s.version with
      | none => 0 | some v => 8 * s.params.dcw v s.ecLevel) % 2 ^ 16

/-- STATUS at rest, R25 and R37: each field at its bits, the reserved bits 0. -/
def Obligations.StatusShowsItsFieldsAtRest : Prop :=
  ∀ s : State, s.pending = none →
    let w := readLoc s (locOf 0x00C#13)
    w.getLsbD 0 = false ∧ w.getLsbD 1 = s.fault ∧ w.getLsbD 2 = s.stageOvf ∧ w.getLsbD 3 = s.overrun ∧
    (w.extractLsb' 4 2).toNat =
      (if s.content.length = 0 then 0 else if s.version ≠ none then 2 else 3) ∧
    w.getLsbD 6 = decide (s.version ≠ none) ∧ w.getLsbD 7 = s.outValid ∧ w.extractLsb' 8 24 = 0

/-- A read while BUSY, R43: ID is its constant; STATUS has BUSY = 1 with FAULT, STAGE_OVF and OVERRUN as
they stand; a reserved offset and a window word at or past OUT_WORDS read 0 (R61); any other read is a free
value. That CMD, STAGE_DATA and STATUS[7:4] are free too, and that R61 holds while BUSY, is the model's reading
(log 4, log 5); the statement fixes no free value. -/
def Obligations.ReadWhileBusyIsFreeButIdAndStatus : Prop :=
  ∀ (s : State) (off : Offset), aligned off = true → s.pending ≠ none →
    (locOf off = .id → exec (.read off) s = .next { s with rsp := some ⟨0x51524445#32, false⟩ }) ∧
    (locOf off = .status → ∃ w : Word,
      exec (.read off) s = .next { s with rsp := some ⟨w, false⟩, draws := s.draws + 1 } ∧
      w.getLsbD 0 = true ∧ w.getLsbD 1 = s.fault ∧ w.getLsbD 2 = s.stageOvf ∧
      w.getLsbD 3 = s.overrun ∧ w.extractLsb' 8 24 = 0) ∧
    (locOf off = .reserved ∨ (∃ k, locOf off = .out k ∧ s.params.outWords ≤ k) →
      exec (.read off) s = .next { s with rsp := some ⟨0, false⟩ }) ∧
    (locOf off ≠ .id → locOf off ≠ .status → locOf off ≠ .reserved →
      (∀ k, locOf off = .out k → k < s.params.outWords) →
      exec (.read off) s = .next { s with
        rsp := some ⟨Config.busyRead s.draws, false⟩, draws := s.draws + 1 })

/-- Reads have no side effect, R65: a read changes the response port only (and the model's own count of free
values), so reading again at rest answers the same. -/
def Obligations.ReadsHaveNoSideEffect : Prop :=
  ∀ (s : State) (off : Offset), aligned off = true →
    ∃ t, exec (.read off) s = .next t ∧ t = { s with rsp := t.rsp, draws := t.draws } ∧
      (s.pending = none → exec (.read off) t = .next t)

/-- R61: the reserved offsets read 0 and ignore writes, and so do the output-window words at or past
OUT_WORDS, with no bus error and no change of state, at rest and while BUSY. That they read 0 while BUSY, and
are none of the words R43 leaves unspecified, is the model's reading (log 4); that the write is an RO_WRITE is
its reading too (log 12). -/
def Obligations.ReservedOffsetsReadZeroIgnoreWrites : Prop :=
  ∀ (s : State) (off : Offset) (w : Word), aligned off = true →
    ((0x038 ≤ off.toNat ∧ off.toNat ≤ 0xFFC) ∨ 0x1000 + 4 * s.params.outWords ≤ off.toNat) →
    exec (.read off) s = .next { s with rsp := some ⟨0, false⟩ } ∧
    decodeRequest (writeWord off w) = .ok (.roWrite off w) ∧
    exec (.roWrite off w) s = .next { s with rsp := some ⟨0, false⟩ }

/-- R64: window word k is at 0x1000 + 4k, stream bit 32k + j is its bit 31 - j, and the bits past OUT_BITLEN
read 0. -/
def Obligations.OutputWindowIsPackedMsbFirst : Prop :=
  ∀ (s : State) (off : Offset) (k j : Nat), s.pending = none → off.toNat = 0x1000 + 4 * k →
    k < s.params.outWords → j < 32 →
    ∃ w : Word, exec (.read off) s = .next { s with rsp := some ⟨w, false⟩ } ∧
      (∀ h : 32 * k + j < s.out.length, w.getLsbD (31 - j) = s.out[32 * k + j]) ∧
      (s.out.length ≤ 32 * k + j → w.getLsbD (31 - j) = false)

/-- R62: an access that is not a whole aligned word is answered with rsp_err = 1 and rsp_rdata = 0 and has no
effect on any state, at rest and while BUSY; the model records the HOST fault (log 6). -/
def Obligations.BusErrorAccessHasNoEffect : Prop :=
  ∀ (s : State) (r : Request) (rest : List HostEvent), s.host = .access r :: rest →
    (r.size ≠ 2#2 ∨ r.addr.extractLsb' 0 2 ≠ 0#2) →
    (s.pending = none →
      step s = .next { s with
        host := rest, rsp := some ⟨0, true⟩, hostFault := s.hostFault <|> some .busError }) ∧
    (∀ opcode arg k, s.pending = some ⟨opcode, arg, k + 1⟩ →
      step s = .next { s with
        host := rest, rsp := some ⟨0, true⟩, hostFault := s.hostFault <|> some .busError
        pending := some ⟨opcode, arg, k⟩ })

/-- R237: a CMD write at rest latches the opcode and ARG and sets BUSY; while BUSY it is dropped with
OVERRUN; with no cycle left the command its opcode names is performed and BUSY is 0. -/
def Obligations.CommandIssueLatchesAndCommits : Prop :=
  (∀ (s : State) (w : Word) (rest : List HostEvent), s.host = .access (writeWord 0x004#13 w) :: rest →
    (s.pending = none →
      ∃ t n, step s = .next t ∧ t = { s with
        host := rest, rsp := some ⟨0, false⟩, draws := t.draws, polled := t.polled
        pending := some ⟨w.extractLsb' 0 8, s.arg, n⟩ }) ∧
    (∀ opcode arg k, s.pending = some ⟨opcode, arg, k + 1⟩ →
      ∃ t, step s = .next t ∧ t = { s with
        host := rest, rsp := some ⟨0, false⟩, overrun := true, hostFault := t.hostFault
        polled := t.polled, pending := some ⟨opcode, arg, k⟩ })) ∧
  ∀ (s : State) (opcode : BitVec 8), CommitsNext opcode s →
    step s = exec (decodeOpcode opcode) s ∧ ∃ t, step s = .next t ∧ t.pending = none

/-- A step runs the instruction it finds: a decoded port operation at the head of the input queue (at rest,
or while a command has cycles left), or the command whose cycles have passed. What step adds around exec:
the queue moves on, a read of STATUS at rest is recorded as a poll (log 23), and the pending command's count
goes down by one. -/
def Obligations.StepRunsTheDecodedInstruction : Prop :=
  (∀ (s : State) (r : Request) (i : Instr) (rest : List HostEvent), s.host = .access r :: rest →
    decodeRequest r = .ok i → isCommand i = false →
    (s.pending = none →
      step s = exec i { s with host := rest, polled := s.polled || decide (i = .read 0x00C#13) }) ∧
    (∀ opcode arg k, s.pending = some ⟨opcode, arg, k + 1⟩ →
      step s = exec i { s with host := rest, pending := some ⟨opcode, arg, k⟩ })) ∧
  (∀ (s : State) (opcode : BitVec 8), CommitsNext opcode s → step s = exec (decodeOpcode opcode) s)

/-- An instruction placed as the next to run is what the next step runs: a 32-bit command word, and the 48-bit
request word of any well-formed instruction, a port operation or a command (log 7, log 11). Around exec step
does what `StepRunsTheDecodedInstruction` says. -/
def Obligations.FetchWordIsTheNextInstruction : Prop :=
  (∀ (s : State) (w : Word),
    step (s.withFetchWord 32 w.toNat) = exec (decodeOpcode (w.extractLsb' 0 8))
      { s with
        pending := some ⟨w.extractLsb' 0 8, s.arg, 0⟩
        host := holdReset s.host
        polled := false }) ∧
  (∀ (s : State) (i : Instr), i.wellFormed = true → isCommand i = false →
    step (s.withFetchWord 48 (encode i).toNat) = exec i
      { s with polled := s.polled || (s.pending.isNone && decide (i = .read 0x00C#13)) }) ∧
  ∀ (s : State) (i : Instr), isCommand i = true →
    ∃ opcode, decodeOpcode opcode = i ∧
      step (s.withFetchWord 48 (encode i).toNat) = exec i
        { s with pending := some ⟨opcode, s.arg, 0⟩, host := holdReset s.host, polled := false }

/-- Every command commits, R41, R286, R288, R289: with no reset in the way, after exactly its remaining
cycles and one commit step, and until then only what the HOST's accesses may change while BUSY has changed
(OVERRUN, the response, the queue, the model's own fields), so the command acts on the encoder state and
the stage as they stood at its CMD write. -/
def Obligations.EveryCommandCommitsAfterItsCycles : Prop :=
  ∀ (s : State) (opcode : BitVec 8) (arg : Word) (n : Nat), s.pending = some ⟨opcode, arg, n⟩ →
    (∀ k, k ≤ n → s.host[k]? ≠ some .rst) →
    ∃ u t, Sys2Proof.core.run n s = .next u ∧
      u = { s with
        pending := some ⟨opcode, arg, 0⟩, overrun := u.overrun, rsp := u.rsp, host := u.host
        draws := u.draws, hostFault := u.hostFault, polled := u.polled } ∧
      exec (decodeOpcode opcode) u = .next t ∧
      Sys2Proof.core.run (n + 1) s = .next t ∧ t.pending = none

/-- `rst`, R280 and R290: from any state, a command pending or not, the next state is the reset state of R38
and the pending command has none of its effects. In any other step a pending command commits, or stays pending with
the same opcode and ARG and one cycle less. -/
def Obligations.RstAbandonsThePendingCommand : Prop :=
  (∀ (s t : State) (p : Pending), s.pending = some p → step s = .next t →
    ResetsNext s ∨ CommitsNext p.opcode s ∨
      ∃ q, t.pending = some q ∧ q.opcode = p.opcode ∧ q.arg = p.arg ∧ q.remaining + 1 = p.remaining) ∧
  ∀ (s : State) (rest : List HostEvent), s.host = .rst :: rest →
    ∃ t, step s = .next t ∧ t = { s with
      host := rest
      content := [], mode := .numeric, ecLevel := .m, version := none
      stage := [], stageOvf := false, fault := false, overrun := false
      outValid := false, out := [], arg := 0, err := .noError, result := 0, pending := none
      rsp := t.rsp, draws := t.draws, hostFault := t.hostFault, polled := t.polled }

/-- The reset state, R38: every piece of the spec's state at its value, and STATUS and REQ_BITS read 0. -/
def Obligations.ResetStateHoldsTheResetValues : Prop :=
  State.reset.content = [] ∧ State.reset.mode = .numeric ∧ State.reset.ecLevel = .m ∧
  State.reset.version = none ∧ State.reset.stage = [] ∧ State.reset.stageOvf = false ∧
  State.reset.fault = false ∧ State.reset.overrun = false ∧ State.reset.outValid = false ∧
  State.reset.out = [] ∧ State.reset.arg = 0 ∧ State.reset.err = .noError ∧ State.reset.result = 0 ∧
  State.reset.pending = none ∧
  readLoc State.reset (locOf 0x00C#13) = 0 ∧ readLoc State.reset (locOf 0x034#13) = 0 ∧
  readLoc State.reset (locOf 0x018#13) = 1 ∧ readLoc State.reset (locOf 0x01C#13) = 1

/-- The FAULT gate, R256: with FAULT set every command but SOFT_RESET does nothing but ERR and RESULT, while
STAGE_DATA and ARG writes and reads still work. -/
def Obligations.FaultGateStopsEveryOtherCommand : Prop :=
  (∀ (i : Instr) (s : State), s.fault = true → isCommand i = true → i ≠ .softReset →
    exec i s = .next { s with err := .internal, result := 0, pending := none }) ∧
  (∀ (b : Byte) (s : State), s.fault = true → s.pending = none →
    s.stage.length < s.params.stageDepth →
    exec (.stageData b) s = .next { s with stage := s.stage ++ [b], rsp := some ⟨0, false⟩ }) ∧
  (∀ (d : Word) (s : State), s.fault = true → s.pending = none →
    exec (.argWrite d) s = .next { s with arg := d, rsp := some ⟨0, false⟩ }) ∧
  (∀ (off : Offset) (s : State), s.fault = true → s.pending = none → aligned off = true →
    exec (.read off) s = .next { s with rsp := some ⟨readLoc s (locOf off), false⟩ })

/-- FAULT and OVERRUN are sticky, R25, R255, R286: a step that clears one is a reset, by `rst` or by the
commit of SOFT_RESET. -/
def Obligations.OnlyResetClearsFaultAndOverrun : Prop :=
  ∀ s t : State, step s = .next t →
    ((s.fault = true ∧ t.fault = false) ∨ (s.overrun = true ∧ t.overrun = false)) →
    ResetsNext s ∨ CommitsNext 0x07#8 s

/-- Which commands write the encoder state, R28 to R31 and R161: CONTENT and MODE only SET_CONTENT, EC_LEVEL
only SET_EC_LEVEL, VERSION only those two, apart from reset. -/
def Obligations.OnlyTheNamedCommandsWriteEncoderState : Prop :=
  ∀ s t : State, step s = .next t → ¬ ResetsNext s → ¬ CommitsNext 0x07#8 s →
    (t.content ≠ s.content → CommitsNext 0x01#8 s) ∧
    (t.mode ≠ s.mode → CommitsNext 0x01#8 s) ∧
    (t.ecLevel ≠ s.ecLevel → CommitsNext 0x02#8 s) ∧
    (t.version ≠ s.version → CommitsNext 0x01#8 s ∨ CommitsNext 0x02#8 s) ∧
    (t.version ≠ s.version →
      t.version = resolve t.params t.content.length t.mode t.ecLevel)

/-- R66: no step, reset included, changes CAP_ROM, DCW_ROM or the other parameters. -/
def Obligations.NoStepChangesTheRoms : Prop :=
  ∀ s t : State, step s = .next t → t.params = s.params

/-- No step stops: every state has a next state. That holds at a bus error access and at a write while BUSY too,
where R62 and R258 ask a model to treat the access as a fault of the HOST program: the model goes on with the
hardware's own behaviour (R62, R286) and records the fault (log 6). -/
def Obligations.EveryStepHasANextState : Prop :=
  ∀ s : State, ∃ t, step s = .next t

/-- Between commands the QRDE is idle and holds every register, R264: a cycle with no access at rest moves the
input queue on and changes nothing else, and with an empty queue nothing changes. -/
def Obligations.IdleHoldsEveryRegister : Prop :=
  (∀ (s : State) (rest : List HostEvent), s.pending = none → s.host = .idle :: rest →
    step s = .next { s with host := rest }) ∧
  ∀ s : State, s.pending = none → s.host = [] → step s = .next s

/-- The end of a run, R291, with the model's record of the poll (log 23): a CMD write, performed or dropped,
asks for a new poll; a read of STATUS that returns BUSY = 0 is one; nothing else is; and once a run has ended,
its result stays until a reset. -/
def Obligations.RunEndsOnlyAfterAnIdlePoll : Prop :=
  (∀ (s : State) (w : Word) (rest : List HostEvent), s.host = .access (writeWord 0x004#13 w) :: rest →
    (∀ opcode arg, s.pending ≠ some ⟨opcode, arg, 0⟩) → ∃ t, step s = .next t ∧ t.polled = false) ∧
  (∀ (s : State) (w : Word) (rest : List HostEvent),
    s.host = .access ⟨false, 0x00C#13, 2#2, w⟩ :: rest → s.pending = none →
    ∃ t d, step s = .next t ∧ t.polled = true ∧ t.rsp = some ⟨d, false⟩ ∧ d.getLsbD 0 = false) ∧
  (∀ s t : State, step s = .next t → s.polled = false → t.polled = true →
    ∃ w rest, s.host = .access ⟨false, 0x00C#13, 2#2, w⟩ :: rest ∧ s.pending = none) ∧
  ∀ s t : State, Inv s → RunEnded s → ¬ ResetsNext s → step s = .next t →
    t = { s with host := s.host.tail } ∧ RunEnded t

/-- Decoding an encoded well-formed instruction gives it back, with the bytes after it. -/
def Obligations.DecodeOfEncodeIsIdentity : Prop :=
  ∀ (i : Instr) (rest : List Byte), i.wellFormed = true →
    decodeBytes (encodeBytes i ++ rest) = .ok (i, rest)

/-- Whatever a request decodes to is well-formed, and is what its own encoding decodes to. -/
def Obligations.DecodedInstructionsAreWellFormed : Prop :=
  ∀ (r : Request) (i : Instr), decodeRequest r = .ok i →
    i.wellFormed = true ∧ decodeRequest (encodeRequest i) = .ok i

/-- R102 with the rows of the opcode table: a CMD word is of a row's instruction exactly when it has the
row's value under the row's mask, so bits 31:8 never matter. -/
def Obligations.CommandWordsMatchTheOpcodeMap : Prop :=
  ∀ w : Word, ∃ i, decodeRequest (writeWord 0x004#13 w) = .ok i ∧
    (w &&& 0xFF#32 = 0x00#32 ↔ i = .nop) ∧ (w &&& 0xFF#32 = 0x01#32 ↔ i = .setContent) ∧
    (w &&& 0xFF#32 = 0x02#32 ↔ i = .setEcLevel) ∧ (w &&& 0xFF#32 = 0x03#32 ↔ i = .getVersion) ∧
    (w &&& 0xFF#32 = 0x04#32 ↔ i = .getFinalData) ∧ (w &&& 0xFF#32 = 0x05#32 ↔ i = .validateLength) ∧
    (w &&& 0xFF#32 = 0x06#32 ↔ i = .stageClear) ∧ (w &&& 0xFF#32 = 0x07#32 ↔ i = .softReset) ∧
    (w &&& 0xF8#32 = 0x08#32 ↔ ∃ low, i = .illegal08 low) ∧ (w &&& 0xF0#32 = 0x10#32 ↔ ∃ low, i = .illegal10 low) ∧
    (w &&& 0xE0#32 = 0x20#32 ↔ ∃ low, i = .illegal20 low) ∧ (w &&& 0xC0#32 = 0x40#32 ↔ ∃ low, i = .illegal40 low) ∧
    (w &&& 0x80#32 = 0x80#32 ↔ ∃ low, i = .illegal80 low)

/-- Bus accesses of 95_test_vectors.md decode to the instructions they stand for. -/
def Obligations.SpecAccessesDecodeAsWritten : Prop :=
  decodeRequest (writeWord 0x004#13 0x00000101#32) = .ok .setContent ∧
  decodeRequest (writeWord 0x004#13 0x000000FF#32) = .ok (.illegal80 0x7F#7) ∧
  decodeRequest (writeWord 0x02C#13 0x00000141#32) = .ok (.stageData 0x41#8) ∧
  decodeRequest (writeWord 0x008#13 0x12345678#32) = .ok (.argWrite 0x12345678#32) ∧
  decodeRequest (writeWord 0x010#13 0x00000005#32) = .ok (.roWrite 0x010#13 0x00000005#32) ∧
  decodeRequest ⟨false, 0x1004#13, 2#2, 0#32⟩ = .ok (.read 0x1004#13) ∧
  decodeRequest (writeWord 0x00A#13 0x00000001#32) = .error .misaligned

/-- The invariants of R42 are kept by every step from every state that has them. -/
def Obligations.StepKeepsTheInvariants : Prop :=
  ∀ s t : State, Inv s → step s = .next t → Inv t

/-- The reset state has the invariants. -/
def Obligations.ResetStateHasTheInvariants : Prop := Inv State.reset

/-- R183, R202, R255: with lawful parameters no step from a state with the invariants raises
Fault(INTERNAL). -/
def Obligations.LawfulRomsNeverRaiseInternal : Prop :=
  ∀ s t : State, s.params.Lawful → Inv s → step s = .next t → s.fault = false → t.fault = false

/-- With lawful parameters GET_FINAL_DATA always completes from a state with the invariants: in VERSIONED
with the whole stream, of at most required_bits; in every other state with INVALID_VERSION (R207, R208). -/
def Obligations.GetFinalDataSucceedsExactlyInVersioned : Prop :=
  ∀ s : State, s.params.Lawful → Inv s → s.fault = false →
    (∀ v, s.version = some v →
      ∃ bits, final s.params s.content s.mode s.ecLevel v = some bits ∧
        bits.length ≤ requiredBits s.params v s.ecLevel ∧
        exec .getFinalData s = .next { s with
          out := bits, outValid := true, err := .noError
          result := BitVec.ofNat 32 bits.length, pending := none }) ∧
    (s.version = none →
      exec .getFinalData s = .next { s with err := .invalidVersion, result := 0, pending := none })

/-- R207: the length of the final string, and that it stays within required_bits when the data does. -/
def Obligations.FinalStringHasTheStatedLength : Prop :=
  ∀ (P : Params) (c : List Byte) (m : Mode) (e : EcLevel) (v : Version) (bits : Bits),
    final P c m e v = some bits →
    let len := 4 + cciWidth v m + dataBits m c.length
    let r := 8 * P.dcw v e
    bits.length = len + (if r ≤ len then 0 else min 4 (r - len)) ∧ (len ≤ r → bits.length ≤ r)

/-- R107, R201 to R205: the fields of the final string in order: mode indicator, count, data, terminator of
zeros. -/
def Obligations.FinalStringIsItsFieldsInOrder : Prop :=
  ∀ (P : Params) (c : List Byte) (m : Mode) (e : EcLevel) (v : Version) (bits : Bits),
    final P c m e v = some bits →
    ∃ d, data c m = some d ∧
      bitsToNat (bits.take 4) = (match m with
        | .numeric => 1
        | .alphanumeric => 2
        | .byte => 4) ∧
      bitsToNat ((bits.drop 4).take (cciWidth v m)) = c.length ∧
      (bits.drop (4 + cciWidth v m)).take d.length = d ∧
      ∀ b ∈ bits.drop (4 + cciWidth v m + d.length), b = false

/-- R185: the packed length of n characters, its value in each mode, and that it strictly increases with
n. -/
def Obligations.PackedDataHasDataBitsLength : Prop :=
  (∀ n, dataBits .numeric (3 * n) = 10 * n ∧ dataBits .numeric (3 * n + 1) = 10 * n + 4 ∧
    dataBits .numeric (3 * n + 2) = 10 * n + 7 ∧ dataBits .alphanumeric (2 * n) = 11 * n ∧
    dataBits .alphanumeric (2 * n + 1) = 11 * n + 6 ∧ dataBits .byte n = 8 * n) ∧
  (∀ (c : List Byte) (m : Mode) (d : Bits), data c m = some d → d.length = dataBits m c.length) ∧
  ∀ (m : Mode) (n k : Nat), n < k → dataBits m n < dataBits m k

/-- No two texts share a stream: at one version and level the final string gives back the mode and the
content (from the packers' field widths R181, R182, R184 and the fields of R206). -/
def Obligations.FinalStringDeterminesTheContent : Prop :=
  ∀ (P : Params) (c c' : List Byte) (m m' : Mode) (e : EcLevel) (v : Version) (bits : Bits),
    final P c m e v = some bits → final P c' m' e v = some bits → m = m' ∧ c = c'

/-- R181, R182, R184 bit group by bit group: a group of three, two or one digits, a pair or a single
character, a byte; and a packer raises Fault(INTERNAL) (answers none) exactly for a byte outside its
alphabet. -/
def Obligations.PackersEmitTheStatedGroups : Prop :=
  (∀ (a b c : Byte) (x y z : Nat) (rest : List Byte) (gs : List Bits), digitValue a = some x →
    digitValue b = some y → digitValue c = some z → packNum rest = some gs →
    packNum (a :: b :: c :: rest) = some (binW 10 (100 * x + 10 * y + z) :: gs)) ∧
  (∀ (a b : Byte) (x y : Nat), digitValue a = some x → digitValue b = some y →
    packNum [a, b] = some [binW 7 (10 * x + y)]) ∧
  (∀ (a : Byte) (x : Nat), digitValue a = some x → packNum [a] = some [binW 4 x]) ∧
  (∀ (a b : Byte) (x y : Nat) (rest : List Byte) (gs : List Bits), alnumValue a = some x →
    alnumValue b = some y → packAlnum rest = some gs →
    packAlnum (a :: b :: rest) = some (binW 11 (x * 45 + y) :: gs)) ∧
  (∀ (a : Byte) (x : Nat), alnumValue a = some x → packAlnum [a] = some [binW 6 x]) ∧
  (∀ (a : Byte) (rest : List Byte), packByte (a :: rest) = binW 8 a.toNat :: packByte rest) ∧
  (packNum [] = some [] ∧ packAlnum [] = some [] ∧ packByte [] = []) ∧
  (∀ c : List Byte, packNum c = none ↔ ∃ b ∈ c, digitValue b = none) ∧
  ∀ c : List Byte, packAlnum c = none ↔ ∃ b ∈ c, alnumValue b = none

/-- R108, R109, R110: the alphanumeric table, character by character in the order of the values 0 to 44; a
digit's value is its alphanumeric value; the width of the count indicator in each version range. -/
def Obligations.CharacterAndCountTables : Prop :=
  (∀ (b : Byte) (x : Nat), alnumValue b = some x ↔
    ([0x30#8, 0x31#8, 0x32#8, 0x33#8, 0x34#8, 0x35#8, 0x36#8, 0x37#8, 0x38#8, 0x39#8,
      0x41#8, 0x42#8, 0x43#8, 0x44#8, 0x45#8, 0x46#8, 0x47#8, 0x48#8, 0x49#8, 0x4A#8, 0x4B#8, 0x4C#8,
      0x4D#8, 0x4E#8, 0x4F#8, 0x50#8, 0x51#8, 0x52#8, 0x53#8, 0x54#8, 0x55#8, 0x56#8, 0x57#8, 0x58#8,
      0x59#8, 0x5A#8, 0x20#8, 0x24#8, 0x25#8, 0x2A#8, 0x2B#8, 0x2D#8, 0x2E#8, 0x2F#8, 0x3A#8]
      : List Byte)[x]? = some b) ∧
  (∀ (b : Byte) (x : Nat), digitValue b = some x ↔
    (0x30 ≤ b.toNat ∧ b.toNat ≤ 0x39 ∧ x = b.toNat - 0x30)) ∧
  (∀ (b : Byte) (x : Nat), digitValue b = some x → alnumValue b = some x) ∧
  ∀ v : Version,
    (versionNumber v ≤ 9 →
      cciWidth v .numeric = 10 ∧ cciWidth v .alphanumeric = 9 ∧ cciWidth v .byte = 8) ∧
    (10 ≤ versionNumber v → versionNumber v ≤ 26 →
      cciWidth v .numeric = 12 ∧ cciWidth v .alphanumeric = 11 ∧ cciWidth v .byte = 16) ∧
    (27 ≤ versionNumber v →
      cciWidth v .numeric = 14 ∧ cciWidth v .alphanumeric = 13 ∧ cciWidth v .byte = 16)

/-- R183: the packer of the content's own class never raises Fault(INTERNAL). -/
def Obligations.ClassifiedContentAlwaysPacks : Prop :=
  ∀ c : List Byte, (data c (classify c)).isSome = true

/-- R140 and R141: digits only is Numeric; the 45-symbol alphabet with a non-digit is Alphanumeric; anything
else is Byte, so a lower-case letter or a byte of at least 0x80 makes a content Byte. -/
def Obligations.ClassifierPicksTheNarrowestMode : Prop :=
  ∀ c : List Byte, c ≠ [] →
    (classify c = .numeric ↔ ∀ b ∈ c, 0x30 ≤ b.toNat ∧ b.toNat ≤ 0x39) ∧
    (classify c = .alphanumeric ↔
      (∀ b ∈ c, alnumValue b ≠ none) ∧ ∃ b ∈ c, b.toNat < 0x30 ∨ 0x39 < b.toNat) ∧
    (classify c = .byte ↔ ∃ b ∈ c, alnumValue b = none) ∧
    ((∃ b ∈ c, 0x61 ≤ b.toNat) → classify c = .byte)

/-- R160 and R165(iv): RESOLVE gives the least version whose capacity holds the count, and none exactly for
the count 0 or a count above every capacity. -/
def Obligations.ResolverGivesTheLeastVersion : Prop :=
  ∀ (P : Params) (n : Nat) (m : Mode) (e : EcLevel),
    (∀ v, resolve P n m e = some v ↔
      n ≠ 0 ∧ n ≤ P.cap v e m ∧ ∀ w : Version, w < v → P.cap w e m < n) ∧
    (resolve P n m e = none ↔ n = 0 ∨ ∀ v, P.cap v e m < n)

/-- R165: with a CAP_ROM that satisfies R72(a) and R72(b) the version does not decrease with the level or the
count, and an unresolvable content stays so at every stricter level; a version given is the least that holds the
count. -/
def Obligations.ResolverIsMonotone : Prop :=
  ∀ (P : Params) (m : Mode),
    (∀ v w : Version, v.val + 1 = w.val → ∀ e, P.cap v e m < P.cap w e m) →
    (∀ v, P.cap v .m m < P.cap v .l m ∧ P.cap v .q m < P.cap v .m m ∧ P.cap v .h m < P.cap v .q m) →
    (∀ (e e' : EcLevel) (n : Nat) (v w : Version), 0 < n →
      (ecLevelCode e).toNat < (ecLevelCode e').toNat →
      resolve P n m e = some v → resolve P n m e' = some w → v ≤ w) ∧
    (∀ (e e' : EcLevel) (n : Nat), 0 < n → (ecLevelCode e).toNat < (ecLevelCode e').toNat →
      resolve P n m e = none → resolve P n m e' = none) ∧
    (∀ (e : EcLevel) (n k : Nat) (w : Version), 0 < n → n ≤ k → resolve P k m e = some w →
      ∃ v, resolve P n m e = some v ∧ v ≤ w) ∧
    (∀ (e : EcLevel) (n : Nat) (v : Version), resolve P n m e = some v →
      n ≤ P.cap v e m ∧ ∀ u : Version, u.val + 1 = v.val → P.cap u e m < n)

/-- R166 for the default CAP_ROM: the largest resolvable count of each mode and level (counts from 1; the
count 0 has no version by R160). The ROM's contents are the spec's own default, from general knowledge
(log 8). -/
def Obligations.DefaultRomLargestResolvableCounts : Prop :=
  ∀ (n : Nat) (m : Mode) (e : EcLevel), 0 < n →
    (resolve Params.default n m e ≠ none ↔ n ≤ (match m, e with
      | .numeric, .l => 7089 | .numeric, .m => 5596 | .numeric, .q => 3993 | .numeric, .h => 3057
      | .alphanumeric, .l => 4296 | .alphanumeric, .m => 3391 | .alphanumeric, .q => 2420
      | .alphanumeric, .h => 1852
      | .byte, .l => 2953 | .byte, .m => 2331 | .byte, .q => 1663 | .byte, .h => 1273))

/-- R7, R72 and R73 for the default parameters, and the derivation R72(d) of every capacity; the
tables are the spec's own default, from general knowledge (log 8). -/
def Obligations.DefaultParametersAreLawful : Prop :=
  Params.default.Lawful ∧
  ∀ (v : Version) (e : EcLevel),
    let a := fun m => 8 * Params.default.dcw v e - 4 - cciWidth v m
    Params.default.cap v e .numeric = 3 * (a .numeric / 10) +
      (if 7 ≤ a .numeric % 10 then 2 else if 4 ≤ a .numeric % 10 then 1 else 0) ∧
    Params.default.cap v e .alphanumeric = 2 * (a .alphanumeric / 11) +
      (if 6 ≤ a .alphanumeric % 11 then 1 else 0) ∧
    Params.default.cap v e .byte = a .byte / 8

/-- R208: apart from reset STATE changes only at the commit of SET_CONTENT or SET_EC_LEVEL, and nothing but
reset leads back to EMPTY. -/
def Obligations.StateMachineTransitions : Prop :=
  ∀ s t : State, step s = .next t → ¬ ResetsNext s → ¬ CommitsNext 0x07#8 s →
    (stateField t ≠ stateField s → CommitsNext 0x01#8 s ∨ CommitsNext 0x02#8 s) ∧
    (stateField s ≠ 0 → stateField t ≠ 0) ∧
    (CommitsNext 0x02#8 s → stateField s = 0 → stateField t = 0)

/-- R253: a failed command is precise. It keeps CONTENT, MODE, EC_LEVEL, VERSION, ARG and OVERRUN; only
GET_FINAL_DATA touches the output or FAULT, and only SET_CONTENT the stage. -/
def Obligations.FailedCommandsArePrecise : Prop :=
  ∀ (i : Instr) (s t : State), isCommand i = true → exec i s = .next t → t.err ≠ .noError →
    t = { s with
      err := t.err, result := 0, pending := none, stage := t.stage, stageOvf := t.stageOvf
      fault := t.fault, out := t.out, outValid := t.outValid } ∧
    (t.stage ≠ s.stage ∨ t.stageOvf ≠ s.stageOvf →
      i = .setContent ∧ t.err = .stageOverflow ∧ t.stage = [] ∧ t.stageOvf = false) ∧
    (t.out ≠ s.out ∨ t.outValid ≠ s.outValid → i = .getFinalData ∧ t.out = [] ∧ t.outValid = false) ∧
    (t.fault ≠ s.fault → i = .getFinalData ∧ t.err = .internal ∧ t.fault = true)

/-- R251: the codes each command can end with. -/
def Obligations.CommandsEndWithTheirListedCodes : Prop :=
  ∀ (i : Instr) (s t : State), exec i s = .next t → match i with
    | .nop | .getVersion | .stageClear => t.err = .noError ∨ t.err = .internal
    | .setContent =>
      t.err = .noError ∨ t.err = .stageOverflow ∨ t.err = .invalidInput ∨ t.err = .internal
    | .setEcLevel | .validateLength => t.err = .noError ∨ t.err = .invalidLength ∨ t.err = .internal
    | .getFinalData => t.err = .noError ∨ t.err = .invalidVersion ∨ t.err = .internal
    | .softReset => t.err = .noError
    | .illegal08 _ | .illegal10 _ | .illegal20 _ | .illegal40 _ | .illegal80 _ =>
      t.err = .badCommand ∨ t.err = .internal
    | .stageData _ | .argWrite _ | .roWrite _ _ | .read _ => t.err = s.err

/-- R258 as the model keeps it (log 6): a bus error access, and a CMD, ARG or STAGE_DATA write while BUSY, are
recorded as a HOST fault unless one is recorded already; nothing else is, and no step erases the record. -/
def Obligations.HostFaultsAreRecordedOnly : Prop :=
  (∀ (s : State) (r : Request) (rest : List HostEvent), s.host = .access r :: rest →
    (∀ opcode arg, s.pending ≠ some ⟨opcode, arg, 0⟩) → (r.size ≠ 2#2 ∨ aligned r.addr = false) →
    ∃ t, step s = .next t ∧ t.hostFault = (s.hostFault <|> some .busError)) ∧
  (∀ (s : State) (off : Offset) (w : Word) (rest : List HostEvent) (opcode : BitVec 8) (arg : Word) (k : Nat),
    off = 0x004#13 ∨ off = 0x008#13 ∨ off = 0x02C#13 → s.host = .access (writeWord off w) :: rest →
    s.pending = some ⟨opcode, arg, k + 1⟩ →
    ∃ t, step s = .next t ∧ t.hostFault = (s.hostFault <|> some .writeWhileBusy)) ∧
  ∀ s t : State, step s = .next t →
    (∀ f, s.hostFault = some f → t.hostFault = some f) ∧
    (s.hostFault = none → t.hostFault ≠ none →
      ∃ r rest, s.host = .access r :: rest ∧
        (r.size ≠ 2#2 ∨ aligned r.addr = false ∨
          (s.busy = true ∧ r.write = true ∧ (r.addr = 0x004#13 ∨ r.addr = 0x008#13 ∨ r.addr = 0x02C#13))))
end

