-- ==== Sys2Proof/Laws/AddressMap.lean ====
section
/-! SUPPORT. What the address map and the decoder say at each offset, so that no later proof unfolds them. -/

namespace Sys2Proof.Machine

@[simp] theorem locOf_id : locOf 0x000#13 = .id := by decide
@[simp] theorem locOf_cmd : locOf 0x004#13 = .cmd := by decide
@[simp] theorem locOf_arg : locOf 0x008#13 = .arg := by decide
@[simp] theorem locOf_status : locOf 0x00C#13 = .status := by decide
@[simp] theorem locOf_err : locOf 0x010#13 = .err := by decide
@[simp] theorem locOf_result : locOf 0x014#13 = .result := by decide
@[simp] theorem locOf_mode : locOf 0x018#13 = .mode := by decide
@[simp] theorem locOf_ecLevel : locOf 0x01C#13 = .ecLevel := by decide
@[simp] theorem locOf_version : locOf 0x020#13 = .version := by decide
@[simp] theorem locOf_contentLen : locOf 0x024#13 = .contentLen := by decide
@[simp] theorem locOf_stageLen : locOf 0x028#13 = .stageLen := by decide
@[simp] theorem locOf_stageData : locOf 0x02C#13 = .stageData := by decide
@[simp] theorem locOf_outBitlen : locOf 0x030#13 = .outBitlen := by decide
@[simp] theorem locOf_reqBits : locOf 0x034#13 = .reqBits := by decide

theorem getLsbD_12_iff (off : Offset) : off.getLsbD 12 = true ↔ 0x1000 ≤ off.toNat := by
  have h := off.isLt
  rw [← BitVec.testBit_toNat, Nat.testBit_eq_decide_div_mod_eq]
  simp only [decide_eq_true_eq]
  omega

/-- Word k of the output window is at 0x1000 + 4k (R60, R64). -/
theorem locOf_out (off : Offset) (h : 0x1000 ≤ off.toNat) :
    locOf off = .out ((off.toNat - 0x1000) / 4) := by
  have hl := off.isLt
  unfold locOf
  rw [if_pos ((getLsbD_12_iff off).2 h)]
  simp only [BitVec.extractLsb'_toNat, Nat.shiftRight_eq_div_pow, Loc.out.injEq]
  omega

theorem of_ite {α : Type} {c : Prop} [Decidable c] {a b x : α} (h : (if c then a else b) = x) :
    (c ∧ a = x) ∨ (¬ c ∧ b = x) := by
  by_cases hc : c
  · exact .inl ⟨hc, by rwa [if_pos hc] at h⟩
  · exact .inr ⟨hc, by rwa [if_neg hc] at h⟩

/-- A place that takes writes is named by its own offset only. -/
theorem locOf_eq_cmd (off : Offset) (h : locOf off = .cmd) : off = 0x004#13 := by
  unfold locOf at h
  iterate 15 (rcases of_ite h with ⟨_, h⟩ | ⟨_, h⟩; first | assumption | exact absurd h (by simp))
  cases h

theorem locOf_eq_arg (off : Offset) (h : locOf off = .arg) : off = 0x008#13 := by
  unfold locOf at h
  iterate 15 (rcases of_ite h with ⟨_, h⟩ | ⟨_, h⟩; first | assumption | exact absurd h (by simp))
  cases h

theorem locOf_eq_stageData (off : Offset) (h : locOf off = .stageData) : off = 0x02C#13 := by
  unfold locOf at h
  iterate 15 (rcases of_ite h with ⟨_, h⟩ | ⟨_, h⟩; first | assumption | exact absurd h (by simp))
  cases h

theorem locOf_eq_id (off : Offset) (h : locOf off = .id) : off = 0x000#13 := by
  unfold locOf at h
  iterate 15 (rcases of_ite h with ⟨_, h⟩ | ⟨_, h⟩; first | assumption | exact absurd h (by simp))
  cases h

theorem locOf_eq_status (off : Offset) (h : locOf off = .status) : off = 0x00C#13 := by
  unfold locOf at h
  iterate 15 (rcases of_ite h with ⟨_, h⟩ | ⟨_, h⟩; first | assumption | exact absurd h (by simp))
  cases h

/-- The offsets 0x038-0x0FFC are reserved (R60). -/
theorem locOf_reserved (off : Offset) (h1 : 0x038 ≤ off.toNat) (h2 : off.toNat ≤ 0xFFC) :
    locOf off = .reserved := by
  unfold locOf
  rw [if_neg (by rw [getLsbD_12_iff]; omega)]
  iterate 14 rw [if_neg (by rintro rfl; revert h1; decide)]

/-- A CMD write is the command its low byte names (R101, R102). -/
theorem decode_cmd_write (w : Word) :
    decodeRequest (writeWord 0x004#13 w) = .ok (decodeOpcode (opcodeOf w)) := by
  have h : aligned 0x004#13 = true := by decide
  simp [decodeRequest, writeWord, h]

theorem decode_arg_write (w : Word) : decodeRequest (writeWord 0x008#13 w) = .ok (.argWrite w) := by
  have h : aligned 0x008#13 = true := by decide
  simp [decodeRequest, writeWord, h]

theorem decode_stage_write (w : Word) :
    decodeRequest (writeWord 0x02C#13 w) = .ok (.stageData (byteOf w)) := by
  have h : aligned 0x02C#13 = true := by decide
  simp [decodeRequest, writeWord, h]

/-- A write to a place that ignores writes is an RO_WRITE (R61, R236). -/
theorem decode_ignored_write (off : Offset) (w : Word) (ha : aligned off = true)
    (hw : writable (locOf off) = false) :
    decodeRequest (writeWord off w) = .ok (.roWrite off w) := by
  simp only [decodeRequest, writeWord, ha]
  cases h : locOf off <;> simp_all [writable]

theorem decode_read (off : Offset) (w : Word) (ha : aligned off = true) :
    decodeRequest ⟨false, off, 2#2, w⟩ = .ok (.read off) := by
  simp [decodeRequest, ha]

end Sys2Proof.Machine
end

