-- ==== Sys2Proof/Laws/Bits.lean ====
section
/-! SUPPORT. Bit strings: lengths, and that bin_w and bitsToNat are inverse bit by bit. -/

namespace Sys2Proof.Machine

@[simp] theorem binW_length (w v : Nat) : (binW w v).length = w := by simp [binW]

/-- Bit j of bin_w(v) is bit w - 1 - j of v (R9). -/
theorem binW_getElem (w v j : Nat) (h : j < (binW w v).length) :
    (binW w v)[j] = v.testBit (w - 1 - j) := by simp [binW]

theorem foldl_bits (bs : Bits) (n : Nat) :
    bs.foldl (fun n b => 2 * n + b.toNat) n = n * 2 ^ bs.length + bitsToNat bs := by
  unfold bitsToNat
  induction bs generalizing n with
  | nil => simp
  | cons b bs ih =>
    simp only [List.foldl_cons, List.length_cons]
    rw [ih, ih (2 * 0 + b.toNat)]; ring

theorem bitsToNat_cons (b : Bool) (bs : Bits) :
    bitsToNat (b :: bs) = b.toNat * 2 ^ bs.length + bitsToNat bs := by
  have := foldl_bits bs (2 * 0 + b.toNat)
  unfold bitsToNat; rw [List.foldl_cons, this]; simp [bitsToNat]

theorem bitsToNat_lt (bs : Bits) : bitsToNat bs < 2 ^ bs.length := by
  induction bs with
  | nil => simp [bitsToNat]
  | cons b bs ih => rw [bitsToNat_cons]; cases b <;> simp [pow_succ] <;> omega

/-- Bit j of a string is bit length - 1 - j of the number it spells (R8, R9). -/
theorem testBit_bitsToNat (bs : Bits) (j : Nat) (h : j < bs.length) :
    (bitsToNat bs).testBit (bs.length - 1 - j) = bs[j] := by
  induction bs generalizing j with
  | nil => simp at h
  | cons b bs ih =>
    rw [bitsToNat_cons]
    have hl := bitsToNat_lt bs
    cases j with
    | zero =>
      simp only [List.length_cons, Nat.add_sub_cancel, Nat.sub_zero, List.getElem_cons_zero]
      rw [mul_comm, Nat.testBit_two_pow_mul_add _ hl]
      cases b <;> simp
    | succ j =>
      simp only [List.length_cons, Nat.add_sub_cancel, List.getElem_cons_succ] at h ⊢
      rw [mul_comm, Nat.testBit_two_pow_mul_add _ hl,
        if_pos (by omega), show bs.length - (j + 1) = bs.length - 1 - j by omega]
      exact ih j (by omega)

/-- Two strings of one length that spell the same number are the same. -/
theorem bitsToNat_inj {a b : Bits} (hl : a.length = b.length) (h : bitsToNat a = bitsToNat b) :
    a = b := by
  induction a generalizing b with
  | nil => cases b <;> simp_all
  | cons x a ih =>
    cases b with
    | nil => simp at hl
    | cons y b =>
      simp only [List.length_cons, Nat.add_right_cancel_iff] at hl
      rw [bitsToNat_cons, bitsToNat_cons, hl] at h
      have ha := bitsToNat_lt a
      have hb := bitsToNat_lt b
      rw [hl] at ha
      cases x <;> cases y <;> simp at h ⊢ <;> first | exact ih hl h | omega

/-- bin_w spells its number (R9). -/
theorem bitsToNat_binW (w v : Nat) (h : v < 2 ^ w) : bitsToNat (binW w v) = v := by
  apply Nat.eq_of_testBit_eq
  intro i
  by_cases hi : i < w
  · have := testBit_bitsToNat (binW w v) (w - 1 - i) (by simp; omega)
    simp only [binW_length, binW_getElem] at this
    rwa [show w - 1 - (w - 1 - i) = i by omega] at this
  · have hp : 2 ^ w ≤ 2 ^ i := Nat.pow_le_pow_right (by omega) (by omega)
    have hb := bitsToNat_lt (binW w v)
    rw [binW_length] at hb
    rw [Nat.testBit_lt_two_pow (by omega), Nat.testBit_lt_two_pow (by omega)]

end Sys2Proof.Machine
end

