-- ==== Sys2Proof/Laws/Decode.lean ====
section
/-! SUPPORT. The request word and its bytes hold exactly a request; a word written to CMD keeps its low byte. -/

namespace Sys2Proof

open Machine

theorem toWord_getLsbD (r : Request) (i : Nat) : r.toWord.getLsbD i =
    if i < 32 then r.wdata.getLsbD i else if i < 45 then r.addr.getLsbD (i - 32)
    else if i < 47 then r.size.getLsbD (i - 45) else (decide (i = 47) && r.write) := by
  unfold Request.toWord
  rw [BitVec.getLsbD_cast, BitVec.getLsbD_append, BitVec.getLsbD_append, BitVec.getLsbD_append,
    BitVec.getLsbD_ofBool]
  by_cases h1 : i < 32
  · simp [h1]
  by_cases h2 : i < 45
  · simp [h1, h2, show i - 32 < 13 by omega]
  by_cases h3 : i < 47
  · simp [h1, h2, h3, show ¬ i - 32 < 13 by omega, show i - 32 - 13 = i - 45 by omega]
    intro _; omega
  · simp [h1, h2, h3, show ¬ i - 32 < 13 by omega, show ¬ i - 32 - 13 < 2 by omega,
      show i - 32 - 13 - 2 = i - 47 by omega, show (i - 47 = 0 ↔ i = 47) by omega]

/-- No field of a request is lost in its word. -/
theorem ofWord_toWord (r : Request) : Request.ofWord r.toWord = r := by
  have h := toWord_getLsbD r
  generalize hw : r.toWord = w at h
  obtain ⟨rw, a, z, d⟩ := r
  simp only [Request.ofWord, Request.mk.injEq]
  refine ⟨by rw [h]; simp, ?_, ?_, ?_⟩
  all_goals apply BitVec.eq_of_getLsbD_eq; intro i hi
  all_goals rw [BitVec.getLsbD_extractLsb', h]
  · simp [hi, show 32 + i < 45 by omega]
  · simp [hi, show ¬ 45 + i < 32 by omega, show 45 + i < 47 by omega]
  · simp [hi]

/-- No bit of a request word is lost in its bytes. -/
theorem wordOfBytes_extract (w : BitVec 48) :
    wordOfBytes (w.extractLsb' 0 8) (w.extractLsb' 8 8) (w.extractLsb' 16 8) (w.extractLsb' 24 8)
      (w.extractLsb' 32 8) (w.extractLsb' 40 8) = w := by
  apply BitVec.eq_of_getLsbD_eq; intro i hi
  unfold wordOfBytes
  rw [BitVec.getLsbD_cast]
  iterate 5 rw [BitVec.getLsbD_append]
  simp only [BitVec.getLsbD_extractLsb']
  have e : ∀ a b : Nat, a < 8 → b + a = i →
      (decide (a < 8) && w.getLsbD (b + a)) = w.getLsbD i := by
    rintro a b h rfl; simp [h]
  split_ifs <;> apply e <;> omega

/-- The opcode of the command word an opcode is written in. -/
theorem opcodeOf_setWidth (op : BitVec 8) : opcodeOf (op.setWidth 32) = op := by revert op; decide

theorem byteOf_setWidth (b : Byte) : byteOf (b.setWidth 32) = b := by revert b; decide

/-- The request of a command decodes to the command its opcode names. -/
theorem decode_cmdRequest (op : BitVec 8) : decodeRequest (cmdRequest op) = .ok (decodeOpcode op) := by
  have h := decode_cmd_write (op.setWidth 32)
  rwa [opcodeOf_setWidth] at h

end Sys2Proof
end

