-- ==== Sys2Proof/Laws/State.lean ====
section
/-! SUPPORT. One lemma per field per update operation of Machine/Ops.lean, each true by rfl, and the two cases
of the FAULT gate and of BUSY. -/

namespace Sys2Proof.Machine

variable (s : State)

@[simp] theorem complete_params (code : ErrCode) (r : Word) : (complete code r s).params = s.params := rfl
@[simp] theorem complete_content (code : ErrCode) (r : Word) : (complete code r s).content = s.content := rfl
@[simp] theorem complete_mode (code : ErrCode) (r : Word) : (complete code r s).mode = s.mode := rfl
@[simp] theorem complete_ecLevel (code : ErrCode) (r : Word) : (complete code r s).ecLevel = s.ecLevel := rfl
@[simp] theorem complete_version (code : ErrCode) (r : Word) : (complete code r s).version = s.version := rfl
@[simp] theorem complete_stage (code : ErrCode) (r : Word) : (complete code r s).stage = s.stage := rfl
@[simp] theorem complete_stageOvf (code : ErrCode) (r : Word) : (complete code r s).stageOvf = s.stageOvf := rfl
@[simp] theorem complete_fault (code : ErrCode) (r : Word) : (complete code r s).fault = s.fault := rfl
@[simp] theorem complete_overrun (code : ErrCode) (r : Word) : (complete code r s).overrun = s.overrun := rfl
@[simp] theorem complete_outValid (code : ErrCode) (r : Word) : (complete code r s).outValid = s.outValid := rfl
@[simp] theorem complete_out (code : ErrCode) (r : Word) : (complete code r s).out = s.out := rfl
@[simp] theorem complete_arg (code : ErrCode) (r : Word) : (complete code r s).arg = s.arg := rfl
@[simp] theorem complete_err (code : ErrCode) (r : Word) : (complete code r s).err = code := rfl
@[simp] theorem complete_result (code : ErrCode) (r : Word) : (complete code r s).result = r := rfl
@[simp] theorem complete_pending (code : ErrCode) (r : Word) : (complete code r s).pending = none := rfl
@[simp] theorem complete_rsp (code : ErrCode) (r : Word) : (complete code r s).rsp = s.rsp := rfl
@[simp] theorem complete_host (code : ErrCode) (r : Word) : (complete code r s).host = s.host := rfl
@[simp] theorem complete_draws (code : ErrCode) (r : Word) : (complete code r s).draws = s.draws := rfl
@[simp] theorem complete_hostFault (code : ErrCode) (r : Word) : (complete code r s).hostFault = s.hostFault := rfl
@[simp] theorem complete_polled (code : ErrCode) (r : Word) : (complete code r s).polled = s.polled := rfl

@[simp] theorem clearOutput_params : (clearOutput s).params = s.params := rfl
@[simp] theorem clearOutput_content : (clearOutput s).content = s.content := rfl
@[simp] theorem clearOutput_mode : (clearOutput s).mode = s.mode := rfl
@[simp] theorem clearOutput_ecLevel : (clearOutput s).ecLevel = s.ecLevel := rfl
@[simp] theorem clearOutput_version : (clearOutput s).version = s.version := rfl
@[simp] theorem clearOutput_stage : (clearOutput s).stage = s.stage := rfl
@[simp] theorem clearOutput_stageOvf : (clearOutput s).stageOvf = s.stageOvf := rfl
@[simp] theorem clearOutput_fault : (clearOutput s).fault = s.fault := rfl
@[simp] theorem clearOutput_overrun : (clearOutput s).overrun = s.overrun := rfl
@[simp] theorem clearOutput_outValid : (clearOutput s).outValid = false := rfl
@[simp] theorem clearOutput_out : (clearOutput s).out = [] := rfl
@[simp] theorem clearOutput_arg : (clearOutput s).arg = s.arg := rfl
@[simp] theorem clearOutput_err : (clearOutput s).err = s.err := rfl
@[simp] theorem clearOutput_result : (clearOutput s).result = s.result := rfl
@[simp] theorem clearOutput_pending : (clearOutput s).pending = s.pending := rfl
@[simp] theorem clearOutput_rsp : (clearOutput s).rsp = s.rsp := rfl
@[simp] theorem clearOutput_host : (clearOutput s).host = s.host := rfl
@[simp] theorem clearOutput_draws : (clearOutput s).draws = s.draws := rfl
@[simp] theorem clearOutput_hostFault : (clearOutput s).hostFault = s.hostFault := rfl
@[simp] theorem clearOutput_polled : (clearOutput s).polled = s.polled := rfl

@[simp] theorem clearStage_params : (clearStage s).params = s.params := rfl
@[simp] theorem clearStage_content : (clearStage s).content = s.content := rfl
@[simp] theorem clearStage_mode : (clearStage s).mode = s.mode := rfl
@[simp] theorem clearStage_ecLevel : (clearStage s).ecLevel = s.ecLevel := rfl
@[simp] theorem clearStage_version : (clearStage s).version = s.version := rfl
@[simp] theorem clearStage_stage : (clearStage s).stage = [] := rfl
@[simp] theorem clearStage_stageOvf : (clearStage s).stageOvf = false := rfl
@[simp] theorem clearStage_fault : (clearStage s).fault = s.fault := rfl
@[simp] theorem clearStage_overrun : (clearStage s).overrun = s.overrun := rfl
@[simp] theorem clearStage_outValid : (clearStage s).outValid = s.outValid := rfl
@[simp] theorem clearStage_out : (clearStage s).out = s.out := rfl
@[simp] theorem clearStage_arg : (clearStage s).arg = s.arg := rfl
@[simp] theorem clearStage_err : (clearStage s).err = s.err := rfl
@[simp] theorem clearStage_result : (clearStage s).result = s.result := rfl
@[simp] theorem clearStage_pending : (clearStage s).pending = s.pending := rfl
@[simp] theorem clearStage_rsp : (clearStage s).rsp = s.rsp := rfl
@[simp] theorem clearStage_host : (clearStage s).host = s.host := rfl
@[simp] theorem clearStage_draws : (clearStage s).draws = s.draws := rfl
@[simp] theorem clearStage_hostFault : (clearStage s).hostFault = s.hostFault := rfl
@[simp] theorem clearStage_polled : (clearStage s).polled = s.polled := rfl

@[simp] theorem raiseInternal_params : (raiseInternal s).params = s.params := rfl
@[simp] theorem raiseInternal_content : (raiseInternal s).content = s.content := rfl
@[simp] theorem raiseInternal_mode : (raiseInternal s).mode = s.mode := rfl
@[simp] theorem raiseInternal_ecLevel : (raiseInternal s).ecLevel = s.ecLevel := rfl
@[simp] theorem raiseInternal_version : (raiseInternal s).version = s.version := rfl
@[simp] theorem raiseInternal_stage : (raiseInternal s).stage = s.stage := rfl
@[simp] theorem raiseInternal_stageOvf : (raiseInternal s).stageOvf = s.stageOvf := rfl
@[simp] theorem raiseInternal_fault : (raiseInternal s).fault = true := rfl
@[simp] theorem raiseInternal_overrun : (raiseInternal s).overrun = s.overrun := rfl
@[simp] theorem raiseInternal_outValid : (raiseInternal s).outValid = false := rfl
@[simp] theorem raiseInternal_out : (raiseInternal s).out = [] := rfl
@[simp] theorem raiseInternal_arg : (raiseInternal s).arg = s.arg := rfl
@[simp] theorem raiseInternal_err : (raiseInternal s).err = .internal := rfl
@[simp] theorem raiseInternal_result : (raiseInternal s).result = 0 := rfl
@[simp] theorem raiseInternal_pending : (raiseInternal s).pending = none := rfl
@[simp] theorem raiseInternal_rsp : (raiseInternal s).rsp = s.rsp := rfl
@[simp] theorem raiseInternal_host : (raiseInternal s).host = s.host := rfl
@[simp] theorem raiseInternal_draws : (raiseInternal s).draws = s.draws := rfl
@[simp] theorem raiseInternal_hostFault : (raiseInternal s).hostFault = s.hostFault := rfl
@[simp] theorem raiseInternal_polled : (raiseInternal s).polled = s.polled := rfl

@[simp] theorem respond_params (d : Word) : (respond d s).params = s.params := rfl
@[simp] theorem respond_content (d : Word) : (respond d s).content = s.content := rfl
@[simp] theorem respond_mode (d : Word) : (respond d s).mode = s.mode := rfl
@[simp] theorem respond_ecLevel (d : Word) : (respond d s).ecLevel = s.ecLevel := rfl
@[simp] theorem respond_version (d : Word) : (respond d s).version = s.version := rfl
@[simp] theorem respond_stage (d : Word) : (respond d s).stage = s.stage := rfl
@[simp] theorem respond_stageOvf (d : Word) : (respond d s).stageOvf = s.stageOvf := rfl
@[simp] theorem respond_fault (d : Word) : (respond d s).fault = s.fault := rfl
@[simp] theorem respond_overrun (d : Word) : (respond d s).overrun = s.overrun := rfl
@[simp] theorem respond_outValid (d : Word) : (respond d s).outValid = s.outValid := rfl
@[simp] theorem respond_out (d : Word) : (respond d s).out = s.out := rfl
@[simp] theorem respond_arg (d : Word) : (respond d s).arg = s.arg := rfl
@[simp] theorem respond_err (d : Word) : (respond d s).err = s.err := rfl
@[simp] theorem respond_result (d : Word) : (respond d s).result = s.result := rfl
@[simp] theorem respond_pending (d : Word) : (respond d s).pending = s.pending := rfl
@[simp] theorem respond_rsp (d : Word) : (respond d s).rsp = some ⟨d, false⟩ := rfl
@[simp] theorem respond_host (d : Word) : (respond d s).host = s.host := rfl
@[simp] theorem respond_draws (d : Word) : (respond d s).draws = s.draws := rfl
@[simp] theorem respond_hostFault (d : Word) : (respond d s).hostFault = s.hostFault := rfl
@[simp] theorem respond_polled (d : Word) : (respond d s).polled = s.polled := rfl

@[simp] theorem drawn_params : (drawn s).params = s.params := rfl
@[simp] theorem drawn_content : (drawn s).content = s.content := rfl
@[simp] theorem drawn_mode : (drawn s).mode = s.mode := rfl
@[simp] theorem drawn_ecLevel : (drawn s).ecLevel = s.ecLevel := rfl
@[simp] theorem drawn_version : (drawn s).version = s.version := rfl
@[simp] theorem drawn_stage : (drawn s).stage = s.stage := rfl
@[simp] theorem drawn_stageOvf : (drawn s).stageOvf = s.stageOvf := rfl
@[simp] theorem drawn_fault : (drawn s).fault = s.fault := rfl
@[simp] theorem drawn_overrun : (drawn s).overrun = s.overrun := rfl
@[simp] theorem drawn_outValid : (drawn s).outValid = s.outValid := rfl
@[simp] theorem drawn_out : (drawn s).out = s.out := rfl
@[simp] theorem drawn_arg : (drawn s).arg = s.arg := rfl
@[simp] theorem drawn_err : (drawn s).err = s.err := rfl
@[simp] theorem drawn_result : (drawn s).result = s.result := rfl
@[simp] theorem drawn_pending : (drawn s).pending = s.pending := rfl
@[simp] theorem drawn_rsp : (drawn s).rsp = s.rsp := rfl
@[simp] theorem drawn_host : (drawn s).host = s.host := rfl
@[simp] theorem drawn_draws : (drawn s).draws = s.draws + 1 := rfl
@[simp] theorem drawn_hostFault : (drawn s).hostFault = s.hostFault := rfl
@[simp] theorem drawn_polled : (drawn s).polled = s.polled := rfl

@[simp] theorem appendStage_params (b : Byte) : (appendStage b s).params = s.params := rfl
@[simp] theorem appendStage_content (b : Byte) : (appendStage b s).content = s.content := rfl
@[simp] theorem appendStage_mode (b : Byte) : (appendStage b s).mode = s.mode := rfl
@[simp] theorem appendStage_ecLevel (b : Byte) : (appendStage b s).ecLevel = s.ecLevel := rfl
@[simp] theorem appendStage_version (b : Byte) : (appendStage b s).version = s.version := rfl
@[simp] theorem appendStage_stage (b : Byte) : (appendStage b s).stage = s.stage ++ [b] := rfl
@[simp] theorem appendStage_stageOvf (b : Byte) : (appendStage b s).stageOvf = s.stageOvf := rfl
@[simp] theorem appendStage_fault (b : Byte) : (appendStage b s).fault = s.fault := rfl
@[simp] theorem appendStage_overrun (b : Byte) : (appendStage b s).overrun = s.overrun := rfl
@[simp] theorem appendStage_outValid (b : Byte) : (appendStage b s).outValid = s.outValid := rfl
@[simp] theorem appendStage_out (b : Byte) : (appendStage b s).out = s.out := rfl
@[simp] theorem appendStage_arg (b : Byte) : (appendStage b s).arg = s.arg := rfl
@[simp] theorem appendStage_err (b : Byte) : (appendStage b s).err = s.err := rfl
@[simp] theorem appendStage_result (b : Byte) : (appendStage b s).result = s.result := rfl
@[simp] theorem appendStage_pending (b : Byte) : (appendStage b s).pending = s.pending := rfl
@[simp] theorem appendStage_rsp (b : Byte) : (appendStage b s).rsp = s.rsp := rfl
@[simp] theorem appendStage_host (b : Byte) : (appendStage b s).host = s.host := rfl
@[simp] theorem appendStage_draws (b : Byte) : (appendStage b s).draws = s.draws := rfl
@[simp] theorem appendStage_hostFault (b : Byte) : (appendStage b s).hostFault = s.hostFault := rfl
@[simp] theorem appendStage_polled (b : Byte) : (appendStage b s).polled = s.polled := rfl

@[simp] theorem noteHostFault_params (f : HostFault) : (noteHostFault f s).params = s.params := rfl
@[simp] theorem noteHostFault_content (f : HostFault) : (noteHostFault f s).content = s.content := rfl
@[simp] theorem noteHostFault_mode (f : HostFault) : (noteHostFault f s).mode = s.mode := rfl
@[simp] theorem noteHostFault_ecLevel (f : HostFault) : (noteHostFault f s).ecLevel = s.ecLevel := rfl
@[simp] theorem noteHostFault_version (f : HostFault) : (noteHostFault f s).version = s.version := rfl
@[simp] theorem noteHostFault_stage (f : HostFault) : (noteHostFault f s).stage = s.stage := rfl
@[simp] theorem noteHostFault_stageOvf (f : HostFault) : (noteHostFault f s).stageOvf = s.stageOvf := rfl
@[simp] theorem noteHostFault_fault (f : HostFault) : (noteHostFault f s).fault = s.fault := rfl
@[simp] theorem noteHostFault_overrun (f : HostFault) : (noteHostFault f s).overrun = s.overrun := rfl
@[simp] theorem noteHostFault_outValid (f : HostFault) : (noteHostFault f s).outValid = s.outValid := rfl
@[simp] theorem noteHostFault_out (f : HostFault) : (noteHostFault f s).out = s.out := rfl
@[simp] theorem noteHostFault_arg (f : HostFault) : (noteHostFault f s).arg = s.arg := rfl
@[simp] theorem noteHostFault_err (f : HostFault) : (noteHostFault f s).err = s.err := rfl
@[simp] theorem noteHostFault_result (f : HostFault) : (noteHostFault f s).result = s.result := rfl
@[simp] theorem noteHostFault_pending (f : HostFault) : (noteHostFault f s).pending = s.pending := rfl
@[simp] theorem noteHostFault_rsp (f : HostFault) : (noteHostFault f s).rsp = s.rsp := rfl
@[simp] theorem noteHostFault_host (f : HostFault) : (noteHostFault f s).host = s.host := rfl
@[simp] theorem noteHostFault_draws (f : HostFault) : (noteHostFault f s).draws = s.draws := rfl
@[simp] theorem noteHostFault_hostFault (f : HostFault) : (noteHostFault f s).hostFault = (s.hostFault <|> some f) := rfl
@[simp] theorem noteHostFault_polled (f : HostFault) : (noteHostFault f s).polled = s.polled := rfl

@[simp] theorem busError_params : (busError s).params = s.params := rfl
@[simp] theorem busError_content : (busError s).content = s.content := rfl
@[simp] theorem busError_mode : (busError s).mode = s.mode := rfl
@[simp] theorem busError_ecLevel : (busError s).ecLevel = s.ecLevel := rfl
@[simp] theorem busError_version : (busError s).version = s.version := rfl
@[simp] theorem busError_stage : (busError s).stage = s.stage := rfl
@[simp] theorem busError_stageOvf : (busError s).stageOvf = s.stageOvf := rfl
@[simp] theorem busError_fault : (busError s).fault = s.fault := rfl
@[simp] theorem busError_overrun : (busError s).overrun = s.overrun := rfl
@[simp] theorem busError_outValid : (busError s).outValid = s.outValid := rfl
@[simp] theorem busError_out : (busError s).out = s.out := rfl
@[simp] theorem busError_arg : (busError s).arg = s.arg := rfl
@[simp] theorem busError_err : (busError s).err = s.err := rfl
@[simp] theorem busError_result : (busError s).result = s.result := rfl
@[simp] theorem busError_pending : (busError s).pending = s.pending := rfl
@[simp] theorem busError_rsp : (busError s).rsp = some ⟨0, true⟩ := rfl
@[simp] theorem busError_host : (busError s).host = s.host := rfl
@[simp] theorem busError_draws : (busError s).draws = s.draws := rfl
@[simp] theorem busError_hostFault : (busError s).hostFault = (s.hostFault <|> some .busError) := rfl
@[simp] theorem busError_polled : (busError s).polled = s.polled := rfl

@[simp] theorem dropWrite_params : (dropWrite s).params = s.params := rfl
@[simp] theorem dropWrite_content : (dropWrite s).content = s.content := rfl
@[simp] theorem dropWrite_mode : (dropWrite s).mode = s.mode := rfl
@[simp] theorem dropWrite_ecLevel : (dropWrite s).ecLevel = s.ecLevel := rfl
@[simp] theorem dropWrite_version : (dropWrite s).version = s.version := rfl
@[simp] theorem dropWrite_stage : (dropWrite s).stage = s.stage := rfl
@[simp] theorem dropWrite_stageOvf : (dropWrite s).stageOvf = s.stageOvf := rfl
@[simp] theorem dropWrite_fault : (dropWrite s).fault = s.fault := rfl
@[simp] theorem dropWrite_overrun : (dropWrite s).overrun = true := rfl
@[simp] theorem dropWrite_outValid : (dropWrite s).outValid = s.outValid := rfl
@[simp] theorem dropWrite_out : (dropWrite s).out = s.out := rfl
@[simp] theorem dropWrite_arg : (dropWrite s).arg = s.arg := rfl
@[simp] theorem dropWrite_err : (dropWrite s).err = s.err := rfl
@[simp] theorem dropWrite_result : (dropWrite s).result = s.result := rfl
@[simp] theorem dropWrite_pending : (dropWrite s).pending = s.pending := rfl
@[simp] theorem dropWrite_rsp : (dropWrite s).rsp = some ⟨0, false⟩ := rfl
@[simp] theorem dropWrite_host : (dropWrite s).host = s.host := rfl
@[simp] theorem dropWrite_draws : (dropWrite s).draws = s.draws := rfl
@[simp] theorem dropWrite_hostFault : (dropWrite s).hostFault = (s.hostFault <|> some .writeWhileBusy) := rfl
@[simp] theorem dropWrite_polled : (dropWrite s).polled = s.polled := rfl

@[simp] theorem resetState_params : (resetState s).params = s.params := rfl
@[simp] theorem resetState_content : (resetState s).content = [] := rfl
@[simp] theorem resetState_mode : (resetState s).mode = .numeric := rfl
@[simp] theorem resetState_ecLevel : (resetState s).ecLevel = .m := rfl
@[simp] theorem resetState_version : (resetState s).version = none := rfl
@[simp] theorem resetState_stage : (resetState s).stage = [] := rfl
@[simp] theorem resetState_stageOvf : (resetState s).stageOvf = false := rfl
@[simp] theorem resetState_fault : (resetState s).fault = false := rfl
@[simp] theorem resetState_overrun : (resetState s).overrun = false := rfl
@[simp] theorem resetState_outValid : (resetState s).outValid = false := rfl
@[simp] theorem resetState_out : (resetState s).out = [] := rfl
@[simp] theorem resetState_arg : (resetState s).arg = 0 := rfl
@[simp] theorem resetState_err : (resetState s).err = .noError := rfl
@[simp] theorem resetState_result : (resetState s).result = 0 := rfl
@[simp] theorem resetState_pending : (resetState s).pending = none := rfl
@[simp] theorem resetState_rsp : (resetState s).rsp = s.rsp := rfl
@[simp] theorem resetState_host : (resetState s).host = s.host := rfl
@[simp] theorem resetState_draws : (resetState s).draws = s.draws := rfl
@[simp] theorem resetState_hostFault : (resetState s).hostFault = s.hostFault := rfl
@[simp] theorem resetState_polled : (resetState s).polled = s.polled := rfl

@[simp] theorem succeed_eq (r : Word) : succeed r s = complete .noError r s := rfl
@[simp] theorem fail_eq (code : ErrCode) : fail code s = complete code 0 s := rfl

@[simp] theorem notePoll_params (i : Instr) : (notePoll i s).params = s.params := rfl
@[simp] theorem notePoll_content (i : Instr) : (notePoll i s).content = s.content := rfl
@[simp] theorem notePoll_mode (i : Instr) : (notePoll i s).mode = s.mode := rfl
@[simp] theorem notePoll_ecLevel (i : Instr) : (notePoll i s).ecLevel = s.ecLevel := rfl
@[simp] theorem notePoll_version (i : Instr) : (notePoll i s).version = s.version := rfl
@[simp] theorem notePoll_stage (i : Instr) : (notePoll i s).stage = s.stage := rfl
@[simp] theorem notePoll_stageOvf (i : Instr) : (notePoll i s).stageOvf = s.stageOvf := rfl
@[simp] theorem notePoll_fault (i : Instr) : (notePoll i s).fault = s.fault := rfl
@[simp] theorem notePoll_overrun (i : Instr) : (notePoll i s).overrun = s.overrun := rfl
@[simp] theorem notePoll_outValid (i : Instr) : (notePoll i s).outValid = s.outValid := rfl
@[simp] theorem notePoll_out (i : Instr) : (notePoll i s).out = s.out := rfl
@[simp] theorem notePoll_arg (i : Instr) : (notePoll i s).arg = s.arg := rfl
@[simp] theorem notePoll_err (i : Instr) : (notePoll i s).err = s.err := rfl
@[simp] theorem notePoll_result (i : Instr) : (notePoll i s).result = s.result := rfl
@[simp] theorem notePoll_pending (i : Instr) : (notePoll i s).pending = s.pending := rfl
@[simp] theorem notePoll_rsp (i : Instr) : (notePoll i s).rsp = s.rsp := rfl
@[simp] theorem notePoll_host (i : Instr) : (notePoll i s).host = s.host := rfl
@[simp] theorem notePoll_draws (i : Instr) : (notePoll i s).draws = s.draws := rfl
@[simp] theorem notePoll_hostFault (i : Instr) : (notePoll i s).hostFault = s.hostFault := rfl
@[simp] theorem notePoll_polled (i : Instr) :
    (notePoll i s).polled = (s.polled || (!s.busy && decide (i = .read 0x00C#13))) := rfl

/-- Only a read of STATUS at rest records a poll. -/
theorem notePoll_of_ne {i : Instr} (h : i ≠ .read 0x00C#13) : notePoll i s = s := by
  simp [notePoll, h]

/-- While BUSY no read records a poll. -/
theorem notePoll_of_busy (i : Instr) (h : s.busy = true) : notePoll i s = s := by
  simp [notePoll, h]

theorem busy_of_none (s : State) (h : s.pending = none) : s.busy = false := by simp [State.busy, h]

theorem busy_of_some (s : State) (h : s.pending ≠ none) : s.busy = true :=
  Option.isSome_iff_ne_none.2 h

theorem gated_of_fault (body : State → State) (s : State) (h : s.fault = true) :
    gated body s = complete .internal 0 s := by simp [gated, h]

theorem gated_of_no_fault (body : State → State) (s : State) (h : s.fault = false) :
    gated body s = body s := by simp [gated, h]

end Sys2Proof.Machine
end

