-- ==== Sys2Proof/Laws/Memory.lean ====
section
/-! SUPPORT. The buffers keep their form: `Memory.wf` holds at reset and every operation that writes a buffer
keeps it. -/

namespace Sys2Proof.Machine

theorem Memory.wf_iff (s : State) : Memory.wf s = true ↔
    s.stage.length ≤ s.params.stageDepth ∧ s.content.length ≤ s.params.stageDepth ∧
      s.out.length ≤ s.params.outWords * 32 := by
  simp [Memory.wf, and_assoc]

theorem Memory.reset_wf : Memory.wf State.reset = true := by simp [Memory.wf_iff, State.reset]

theorem Memory.resetState_wf (s : State) : Memory.wf (resetState s) = true := by simp [Memory.wf_iff]

/-- A state with the same parameters and buffers has the form when the first has it. -/
theorem Memory.wf_of_eq {s t : State} (h : Memory.wf s = true) (hp : t.params = s.params)
    (hs : t.stage = s.stage) (hc : t.content = s.content) (ho : t.out = s.out) : Memory.wf t = true := by
  rw [Memory.wf_iff] at h ⊢
  rwa [hp, hs, hc, ho]

theorem Memory.clearStage_wf {s : State} (h : Memory.wf s = true) : Memory.wf (clearStage s) = true := by
  rw [Memory.wf_iff] at h ⊢
  exact ⟨Nat.zero_le _, h.2.1, h.2.2⟩

theorem Memory.clearOutput_wf {s : State} (h : Memory.wf s = true) : Memory.wf (clearOutput s) = true := by
  rw [Memory.wf_iff] at h ⊢
  exact ⟨h.1, h.2.1, Nat.zero_le _⟩

/-- A byte is appended only where there is room (R146). -/
theorem Memory.appendStage_wf {s : State} (b : Byte) (h : Memory.wf s = true)
    (room : s.stage.length < s.params.stageDepth) : Memory.wf (appendStage b s) = true := by
  rw [Memory.wf_iff] at h ⊢
  refine ⟨?_, h.2.1, h.2.2⟩
  show (s.stage ++ [b]).length ≤ _
  rw [List.length_append]
  exact room

/-- The committed content is the stage, so it fits too (R148). -/
theorem Memory.commitStage_wf {s : State} (h : Memory.wf s = true) : Memory.wf (commitStage s) = true := by
  rw [Memory.wf_iff] at h ⊢
  exact ⟨Nat.zero_le _, h.1, Nat.zero_le _⟩

/-- An output is stored only where it fits (R209). -/
theorem Memory.getFinalDataBody_wf {s : State} (h : Memory.wf s = true) :
    Memory.wf (getFinalDataBody s) = true := by
  unfold getFinalDataBody
  split
  · exact Memory.wf_of_eq (Memory.clearOutput_wf h) rfl rfl rfl rfl
  · split
    · exact Memory.wf_of_eq (Memory.clearOutput_wf h) rfl rfl rfl rfl
    · split
      · exact Memory.wf_of_eq (Memory.clearOutput_wf h) rfl rfl rfl rfl
      · rename_i fits
        rw [Memory.wf_iff] at h ⊢
        exact ⟨h.1, h.2.1, Nat.not_lt.1 fits⟩

end Sys2Proof.Machine
end

