-- ==== Sys2Proof/Laws/Packer.lean ====
section
/-! SUPPORT. Said once: what digitValue, alnumValue, binW and final answer, and what the first match of a scan
over the versions is. -/

namespace Sys2Proof.Machine

theorem digitValue_spec {b : Byte} {x : Nat} (h : digitValue b = some x) :
    x ≤ 9 ∧ x + 0x30 = b.toNat := by
  unfold digitValue at h
  split at h
  · cases h; omega
  · cases h

theorem digitValue_inj {a b : Byte} {x : Nat} (ha : digitValue a = some x) (hb : digitValue b = some x) :
    a = b := by
  have h1 := (digitValue_spec ha).2
  have h2 := (digitValue_spec hb).2
  exact BitVec.eq_of_toNat_eq (h1.symm.trans h2)

theorem digitValue_isSome (b : Byte) : (digitValue b).isSome = true ↔ 0x30 ≤ b.toNat ∧ b.toNat ≤ 0x39 := by
  unfold digitValue; split <;> simp_all

/-- A digit's value is its alphanumeric value (R109). -/
theorem alnumValue_of_digit {b : Byte} {x : Nat} (h : digitValue b = some x) : alnumValue b = some x := by
  unfold digitValue at h
  split at h
  · rename_i r; unfold alnumValue; rw [if_pos r]; exact h
  · cases h

theorem alnumValue_le {b : Byte} {x : Nat} (h : alnumValue b = some x) : x ≤ 44 := by
  have all : ∀ b : Byte, (match alnumValue b with
    | some x => decide (x ≤ 44)
    | none => true) = true := by decide
  have := all b
  rw [h] at this
  exact of_decide_eq_true this

/-- The character of an alphanumeric value, read off the table of R108. -/
def alnumChar (x : Nat) : Byte :=
  ([0x30#8, 0x31#8, 0x32#8, 0x33#8, 0x34#8, 0x35#8, 0x36#8, 0x37#8, 0x38#8, 0x39#8, 0x41#8, 0x42#8,
    0x43#8, 0x44#8, 0x45#8, 0x46#8, 0x47#8, 0x48#8, 0x49#8, 0x4A#8, 0x4B#8, 0x4C#8, 0x4D#8, 0x4E#8,
    0x4F#8, 0x50#8, 0x51#8, 0x52#8, 0x53#8, 0x54#8, 0x55#8, 0x56#8, 0x57#8, 0x58#8, 0x59#8, 0x5A#8,
    0x20#8, 0x24#8, 0x25#8, 0x2A#8, 0x2B#8, 0x2D#8, 0x2E#8, 0x2F#8, 0x3A#8] : List Byte).getD x 0#8

theorem alnumChar_alnumValue {b : Byte} {x : Nat} (h : alnumValue b = some x) : alnumChar x = b := by
  have all : ∀ b : Byte, (match alnumValue b with
    | some x => decide (alnumChar x = b)
    | none => true) = true := by decide
  have := all b
  rw [h] at this
  exact of_decide_eq_true this

theorem alnumValue_inj {a b : Byte} {x : Nat} (ha : alnumValue a = some x) (hb : alnumValue b = some x) :
    a = b := (alnumChar_alnumValue ha).symm.trans (alnumChar_alnumValue hb)

theorem binW_inj {w x y : Nat} (hx : x < 2 ^ w) (hy : y < 2 ^ w) (h : binW w x = binW w y) : x = y := by
  rw [← bitsToNat_binW w x hx, h, bitsToNat_binW w y hy]

/-- All that FINAL can answer: its four fields, in order, the count within its field (R206). -/
theorem final_eq_some {P : Params} {c : List Byte} {m : Mode} {e : EcLevel} {v : Version} {bits : Bits}
    (h : final P c m e v = some bits) :
    c.length < 2 ^ cciWidth v m ∧ ∃ d, data c m = some d ∧
      bits = binW 4 (modeCode m).toNat ++ binW (cciWidth v m) c.length ++ d ++
        List.replicate (termLen (4 + cciWidth v m + d.length) (requiredBits P v e)) false := by
  unfold final at h
  dsimp only at h
  split at h
  · cases h
  · rename_i fits
    split at h
    · cases h
    · rename_i d hd
      cases h
      exact ⟨Nat.not_le.1 fits, d, hd, by simp [Nat.add_assoc]⟩

/-- FINAL faults on a count too large for its field (R202). -/
theorem final_eq_none {P : Params} {c : List Byte} {m : Mode} {e : EcLevel} {v : Version}
    (h : 2 ^ cciWidth v m ≤ c.length) : final P c m e v = none := if_pos h

/-- A scan in increasing order stops at the least index that passes. -/
theorem find_finRange {n : Nat} {p : Fin n → Bool} {v : Fin n} :
    (List.finRange n).find? p = some v ↔ p v = true ∧ ∀ w < v, p w = false := by
  rw [List.find?_eq_some_iff_getElem]
  constructor
  · rintro ⟨hv, i, hi, e, least⟩
    refine ⟨hv, fun w hw => ?_⟩
    simp only [List.getElem_finRange] at e
    have := least w.val (by rw [← e] at hw; exact hw)
    simpa using this
  · rintro ⟨hv, least⟩
    refine ⟨hv, v.val, by simp, by simp, fun j hj => ?_⟩
    simp only [List.getElem_finRange, Bool.not_eq_true', Fin.cast_mk]
    exact least _ hj

end Sys2Proof.Machine
end

