-- ==== Sys2Proof/Laws/PerInstr.lean ====
section
/-! SUPPORT. Facts about every instruction as syntax, one lemma for each constructor. -/

namespace Sys2Proof.Laws

open Machine

/-- The request that carries a well-formed instruction decodes to it. -/
def DecodeEncode.Statement (i : Instr) : Prop :=
  i.wellFormed = true → decodeRequest (encodeRequest i) = .ok i

namespace DecodeEncode

theorem nop : Statement .nop := fun _ => decode_cmdRequest 0x00#8
theorem setContent : Statement .setContent := fun _ => decode_cmdRequest 0x01#8
theorem setEcLevel : Statement .setEcLevel := fun _ => decode_cmdRequest 0x02#8
theorem getVersion : Statement .getVersion := fun _ => decode_cmdRequest 0x03#8
theorem getFinalData : Statement .getFinalData := fun _ => decode_cmdRequest 0x04#8
theorem validateLength : Statement .validateLength := fun _ => decode_cmdRequest 0x05#8
theorem stageClear : Statement .stageClear := fun _ => decode_cmdRequest 0x06#8
theorem softReset : Statement .softReset := fun _ => decode_cmdRequest 0x07#8

theorem illegal08 (low : BitVec 3) : Statement (.illegal08 low) := fun _ => by
  show decodeRequest (cmdRequest _) = _
  rw [decode_cmdRequest]; revert low; decide

theorem illegal10 (low : BitVec 4) : Statement (.illegal10 low) := fun _ => by
  show decodeRequest (cmdRequest _) = _
  rw [decode_cmdRequest]; revert low; decide

theorem illegal20 (low : BitVec 5) : Statement (.illegal20 low) := fun _ => by
  show decodeRequest (cmdRequest _) = _
  rw [decode_cmdRequest]; revert low; decide

theorem illegal40 (low : BitVec 6) : Statement (.illegal40 low) := fun _ => by
  show decodeRequest (cmdRequest _) = _
  rw [decode_cmdRequest]; revert low; decide

theorem illegal80 (low : BitVec 7) : Statement (.illegal80 low) := fun _ => by
  show decodeRequest (cmdRequest _) = _
  rw [decode_cmdRequest]; revert low; decide

theorem stageData (b : Byte) : Statement (.stageData b) := fun _ => by
  have h := decode_stage_write (b.setWidth 32)
  rwa [byteOf_setWidth] at h

theorem argWrite (data : Word) : Statement (.argWrite data) := fun _ => decode_arg_write data

theorem roWrite (off : Offset) (data : Word) : Statement (.roWrite off data) := fun h => by
  simp only [Instr.wellFormed, Bool.and_eq_true, Bool.not_eq_true'] at h
  exact decode_ignored_write off data h.1 h.2

theorem read (off : Offset) : Statement (.read off) := fun h => decode_read off 0#32 h

end DecodeEncode

end Sys2Proof.Laws
end

