-- ==== Sys2Proof/Laws/Step.lean ====
section
/-! SUPPORT. Said once: what a port operation can do, what a command can do, and what a step can do. Later
proofs cite these and do not unfold exec or step. -/

namespace Sys2Proof.Machine

/-- All that a HOST access or an idle cycle can do: the encoder state, the output, FAULT, ERR and RESULT
stay; OVERRUN is not cleared; the stage stays, or takes one byte that fits, or is marked as overflowed. -/
structure PortEffect (s t : State) : Prop where
  frame : t = { s with
    stage := t.stage, stageOvf := t.stageOvf, overrun := t.overrun, arg := t.arg
    pending := t.pending, rsp := t.rsp, host := t.host, draws := t.draws, hostFault := t.hostFault
    polled := t.polled }
  overrun : s.overrun = true → t.overrun = true
  hostFault : ∀ f, s.hostFault = some f → t.hostFault = some f
  stage : (t.stage = s.stage ∧ t.stageOvf = s.stageOvf) ∨
    (∃ b, s.stage.length < s.params.stageDepth ∧ t.stage = s.stage ++ [b] ∧ t.stageOvf = s.stageOvf) ∨
    (s.params.stageDepth ≤ s.stage.length ∧ t.stage = s.stage ∧ t.stageOvf = true)
  polled : (s.polled = true → s.pending = none) → t.polled = true → t.pending = none

theorem hostFault_kept {a b : Option HostFault} {f : HostFault} (h : a = some f) :
    (a <|> b) = some f := by subst h; rfl

theorem PortEffect.refl (s : State) : PortEffect s s :=
  ⟨rfl, id, fun _ => id, .inl ⟨rfl, rfl⟩, id⟩

theorem busError_effect (s : State) : PortEffect s (busError s) :=
  ⟨rfl, id, fun _ => hostFault_kept, .inl ⟨rfl, rfl⟩, id⟩

theorem dropWrite_effect (s : State) : PortEffect s (dropWrite s) :=
  ⟨rfl, fun _ => rfl, fun _ => hostFault_kept, .inl ⟨rfl, rfl⟩, id⟩

/-- An answer, with or without a free value drawn for it, is all that a read does. -/
theorem respond_effect (d : Word) (s : State) : PortEffect s (respond d s) :=
  ⟨rfl, id, fun _ => id, .inl ⟨rfl, rfl⟩, id⟩

theorem respond_drawn_effect (d : Word) (s : State) : PortEffect s (respond d (drawn s)) :=
  ⟨rfl, id, fun _ => id, .inl ⟨rfl, rfl⟩, id⟩

theorem issue_effect (op : BitVec 8) (s : State) : PortEffect s (issue op s) := by
  unfold issue; split
  · exact ⟨rfl, fun _ => rfl, fun _ => hostFault_kept, .inl ⟨rfl, rfl⟩, nofun⟩
  · exact ⟨rfl, id, fun _ => id, .inl ⟨rfl, rfl⟩, nofun⟩

/-- A CMD write is the HOST's last one until a poll follows it (R291). -/
theorem issue_polled (op : BitVec 8) (s : State) : (issue op s).polled = false := by
  unfold issue; split <;> rfl

/-- Everything a read while BUSY can do: answer some value, with or without a free value drawn. -/
theorem readBusy_cases (s : State) (l : Loc) :
    ∃ d, readBusy s l = respond d s ∨ readBusy s l = respond d (drawn s) := by
  cases l
  case id => exact ⟨_, .inl rfl⟩
  case reserved => exact ⟨_, .inl rfl⟩
  case out k =>
    unfold readBusy; dsimp only; split
    · exact ⟨_, .inr rfl⟩
    · exact ⟨_, .inl rfl⟩
  all_goals exact ⟨_, .inr rfl⟩

theorem readBusy_effect (s : State) (l : Loc) :
    PortEffect s (readBusy s l) ∧ (readBusy s l).pending = s.pending ∧ (readBusy s l).host = s.host ∧
      (readBusy s l).polled = s.polled := by
  obtain ⟨d, h | h⟩ := readBusy_cases s l <;> rw [h]
  · exact ⟨respond_effect d s, rfl, rfl, rfl⟩
  · exact ⟨respond_drawn_effect d s, rfl, rfl, rfl⟩

/-- A port operation has a next state with a PortEffect; it leaves the pending command, the queue and the
record of the poll alone. -/
theorem exec_port (i : Instr) (s : State) (h : isCommand i = false) :
    ∃ t, exec i s = .next t ∧ PortEffect s t ∧ t.pending = s.pending ∧ t.host = s.host ∧
      t.polled = s.polled := by
  cases i <;> simp only [isCommand, Bool.true_eq_false] at h <;> refine ⟨_, rfl, ?_⟩
  case stageData b =>
    split
    · exact ⟨dropWrite_effect s, rfl, rfl, rfl⟩
    · split
      · exact ⟨⟨rfl, id, fun _ => id, .inr (.inl ⟨b, by assumption, rfl, rfl⟩), id⟩, rfl, rfl, rfl⟩
      · exact ⟨⟨rfl, id, fun _ => id, .inr (.inr ⟨by omega, rfl, rfl⟩), id⟩, rfl, rfl, rfl⟩
  case argWrite d =>
    split
    · exact ⟨dropWrite_effect s, rfl, rfl, rfl⟩
    · exact ⟨⟨rfl, id, fun _ => id, .inl ⟨rfl, rfl⟩, id⟩, rfl, rfl, rfl⟩
  case roWrite => exact ⟨respond_effect 0 s, rfl, rfl, rfl⟩
  case read off =>
    split
    · exact ⟨busError_effect s, rfl, rfl, rfl⟩
    · split
      · exact readBusy_effect s _
      · exact ⟨respond_effect _ s, rfl, rfl, rfl⟩

/-- A poll is recorded only at rest, so it changes no PortEffect. -/
theorem PortEffect.of_notePoll {s t : State} {i : Instr} (e : PortEffect (notePoll i s) t) :
    PortEffect s t :=
  ⟨e.frame, e.overrun, e.hostFault, e.stage, fun hs => e.polled fun hp => by
    rw [notePoll_polled, Bool.or_eq_true, Bool.and_eq_true, Bool.not_eq_true'] at hp
    rcases hp with hp | ⟨hb, _⟩
    · exact hs hp
    · exact Option.not_isSome_iff_eq_none.1 (by simpa [State.busy] using hb)⟩

/-- Every opcode names a command (R102, R106). -/
theorem isCommand_decodeOpcode (op : BitVec 8) : isCommand (decodeOpcode op) = true := by
  revert op; decide

/-- What a command may change besides ERR, RESULT and BUSY, past the FAULT gate: the body of its arm. -/
def commandBody : Instr → State → State
  | .nop => succeed 0
  | .setContent => setContentBody
  | .setEcLevel => setEcLevelBody
  | .getVersion => fun s => succeed (BitVec.ofNat 32 (versionValue s.version)) s
  | .getFinalData => getFinalDataBody
  | .validateLength => validateLengthBody
  | .stageClear => fun s => succeed 0 (clearStage s)
  | .softReset => resetState
  | .illegal08 _ | .illegal10 _ | .illegal20 _ | .illegal40 _ | .illegal80 _ => fail .badCommand
  | .stageData _ | .argWrite _ | .roWrite _ _ | .read _ => id

/-- A command is its body behind the FAULT gate; SOFT_RESET is not gated (R256). -/
theorem exec_command (i : Instr) (s : State) (h : isCommand i = true) :
    exec i s = .next (if i = .softReset then resetState s else gated (commandBody i) s) := by
  cases i <;> first | rfl | cases h

/-- A command ends with BUSY = 0, and leaves the parameters, the queue and the response alone. -/
theorem commandBody_frame (i : Instr) (s : State) (h : isCommand i = true) :
    (commandBody i s).pending = none ∧ (commandBody i s).params = s.params ∧
    (commandBody i s).host = s.host ∧ (commandBody i s).rsp = s.rsp ∧
    (commandBody i s).draws = s.draws ∧ (commandBody i s).hostFault = s.hostFault ∧
    (commandBody i s).polled = s.polled := by
  cases i <;> simp only [isCommand, Bool.false_eq_true] at h <;> simp only [commandBody]
  case setContent =>
    unfold setContentBody; split
    · simp
    · split <;> simp [commitStage]
  case setEcLevel => unfold setEcLevelBody; dsimp only; split <;> simp
  case validateLength => unfold validateLengthBody; split <;> simp
  case getFinalData =>
    unfold getFinalDataBody; split
    · simp
    · split
      · simp
      · split <;> simp
  all_goals simp

/-- Everything a step can do: a reset by `rst`; the commit of a pending command; or a cycle of the outside,
a PortEffect on the state with the pending command one cycle nearer its commit. -/
theorem step_cases {s t : State} (h : step s = .next t) :
    (∃ rest, s.host = .rst :: rest ∧ t = resetState { s with host := rest }) ∨
    (∃ op, CommitsNext op s ∧ exec (decodeOpcode op) s = .next t) ∨
    (¬ ResetsNext s ∧ PortEffect s t ∧
      ((s.pending = none ∧ hostTurn s = .next t) ∨
        ∃ op arg k, s.pending = some ⟨op, arg, k + 1⟩ ∧ t.pending = some ⟨op, arg, k⟩ ∧
          hostTurn { s with pending := some ⟨op, arg, k⟩ } = .next t)) := by
  have turn : ∀ u : State, (∀ rest, u.host ≠ .rst :: rest) → hostTurn u = .next t →
      PortEffect u t ∧ (u.pending ≠ none → t.pending = u.pending) := by
    intro u hu ht
    unfold hostTurn at ht
    split at ht
    · cases ht; exact ⟨.refl _, fun _ => rfl⟩
    · cases ht; exact ⟨⟨rfl, id, fun _ => id, .inl ⟨rfl, rfl⟩, id⟩, fun _ => rfl⟩
    · rename_i rest hr; exact absurd hr (hu rest)
    · rename_i r rest hr
      have lift : ∀ {v}, PortEffect { u with host := rest } v → PortEffect u v :=
        fun e => ⟨e.frame, e.overrun, e.hostFault, e.stage, e.polled⟩
      unfold accept at ht
      split at ht
      · cases ht; exact ⟨lift (busError_effect _), fun _ => rfl⟩
      · rename_i i _
        split at ht
        · cases ht
          refine ⟨lift (issue_effect _ _), fun hp => ?_⟩
          unfold issue
          rw [if_pos (busy_of_some _ (by simpa using hp))]; rfl
        · rename_i hc
          obtain ⟨v, hv, e, hp, _⟩ := exec_port i (notePoll i { u with host := rest }) (by simpa using hc)
          rw [hv] at ht; cases ht
          exact ⟨lift e.of_notePoll, fun _ => hp⟩
  unfold step at h
  split at h
  · rename_i rest hr; cases h; exact .inl ⟨rest, hr, rfl⟩
  · rename_i hr
    have hn : ¬ ResetsNext s := by
      unfold ResetsNext
      cases hh : s.host with
      | nil => simp
      | cons e rest =>
        cases e with
        | rst => exact absurd hh (hr rest)
        | access _ => simp
        | idle => simp
    split at h
    · rename_i p hp
      obtain ⟨op, arg, n⟩ := p
      cases n with
      | zero => exact .inr (.inl ⟨op, ⟨hn, arg, hp⟩, h⟩)
      | succ k =>
        refine .inr (.inr ⟨hn, ?_⟩)
        obtain ⟨e, hp'⟩ := turn { s with pending := some ⟨op, arg, k⟩ } hr h
        exact ⟨⟨e.frame, e.overrun, e.hostFault, e.stage, fun hs => e.polled fun hq =>
          absurd (hs hq) (by rw [hp]; nofun)⟩,
          .inr ⟨op, arg, k, hp, hp' (by simp), h⟩⟩
    · rename_i hp
      obtain ⟨e, _⟩ := turn s hr h
      exact .inr (.inr ⟨hn, e, .inl ⟨hp, h⟩⟩)

/-- The commit step (R41). -/
theorem step_commit {s : State} {op : BitVec 8} (h : CommitsNext op s) :
    step s = exec (decodeOpcode op) s := by
  obtain ⟨h1, a, h2⟩ := h
  unfold step
  split
  · rename_i rest hh; exact absurd (by simp [ResetsNext, hh]) h1
  · simp [h2, coreTurn]

end Sys2Proof.Machine
end

