-- ==== Sys2Proof/Tests/Slice0.lean ====
section
/-! SUPPORT. The model's own tests. Expected values come from spec/95_test_vectors.md (V-…), from the
examples of the rules named, or by hand from the tables of the rules named. -/

namespace Sys2Proof.Tests

open Sys2Proof.Machine

/-- What a field of the next state is, if there is one. -/
def after {α : Type} (r : Result) (f : State → α) : Option α :=
  match r with
  | .next t => some (f t)
  | .fault _ => none
  | .refused _ => none

/-- The reset state with these bytes staged. -/
def staged (c : List Byte) : State := { State.reset with stage := c }

/-- The state after a content was committed at a level, with its mode and version given by hand. -/
def holding (c : List Byte) (m : Mode) (e : EcLevel) (v : Option Version) : State :=
  { State.reset with content := c, mode := m, ecLevel := e, version := v }

/-- The reset state with a command pending. -/
def busyWith (opcode : BitVec 8) (arg : Word) (remaining : Nat) : State :=
  { State.reset with pending := some ⟨opcode, arg, remaining⟩ }

/-- The reset state with FAULT set. -/
def faulted : State := { State.reset with fault := true }

/-- "HELLO WORLD". -/
def helloWorld : List Byte :=
  [0x48#8, 0x45#8, 0x4C#8, 0x4C#8, 0x4F#8, 0x20#8, 0x57#8, 0x4F#8, 0x52#8, 0x4C#8, 0x44#8]

/-- "AC-42". -/
def ac42 : List Byte := [0x41#8, 0x43#8, 0x2D#8, 0x34#8, 0x32#8]

/-- "123456". -/
def digits6 : List Byte := [0x31#8, 0x32#8, 0x33#8, 0x34#8, 0x35#8, 0x36#8]

/-- "01234567". -/
def digits8 : List Byte := [0x30#8, 0x31#8, 0x32#8, 0x33#8, 0x34#8, 0x35#8, 0x36#8, 0x37#8]

/-! WellFormed: one ill-formed term for each check. -/

theorem test_wellFormed_read_misaligned : (Instr.read 0x00A#13).wellFormed = false := by decide
theorem test_wellFormed_roWrite_misaligned : (Instr.roWrite 0x011#13 0#32).wellFormed = false := by decide
theorem test_wellFormed_roWrite_cmd : (Instr.roWrite 0x004#13 0#32).wellFormed = false := by decide
theorem test_wellFormed_roWrite_arg : (Instr.roWrite 0x008#13 0#32).wellFormed = false := by decide
theorem test_wellFormed_roWrite_stageData : (Instr.roWrite 0x02C#13 0#32).wellFormed = false := by decide

/-! Decode: each command's word from the opcode map (R102), in bits 31:0; each port access as a request
word: req_write, req_size, req_addr, req_wdata (R39, R60, R113; layout of log 11). -/

theorem test_decode_nop :
    decodeTableWord 32 0b00000000000000000000000000000000 = some .nop := by decide
theorem test_decode_setContent_reserved_bits :
    decodeTableWord 32 0b00000000000000000000000100000001 = some .setContent := by decide
theorem test_decode_setEcLevel :
    decodeTableWord 32 0b00000000000000000000000000000010 = some .setEcLevel := by decide
theorem test_decode_getVersion :
    decodeTableWord 32 0b00000000000000000000000000000011 = some .getVersion := by decide
theorem test_decode_getFinalData :
    decodeTableWord 32 0b00000000000000000000000000000100 = some .getFinalData := by decide
theorem test_decode_validateLength :
    decodeTableWord 32 0b00000000000000000000000000000101 = some .validateLength := by decide
theorem test_decode_stageClear :
    decodeTableWord 32 0b11111111111111111111111100000110 = some .stageClear := by decide
theorem test_decode_softReset :
    decodeTableWord 32 0b00000000000000000000000000000111 = some .softReset := by decide
theorem test_decode_illegal08 :
    decodeTableWord 32 0b00000000000000000000000000001000 = some (.illegal08 0b000#3) := by decide
theorem test_decode_illegal10 :
    decodeTableWord 32 0b00000000000000000000000000011001 = some (.illegal10 0b1001#4) := by decide
theorem test_decode_illegal20 :
    decodeTableWord 32 0b00000000000000000000000000110001 = some (.illegal20 0b10001#5) := by decide
theorem test_decode_illegal40 :
    decodeTableWord 32 0b00000000000000000000000001000000 = some (.illegal40 0b000000#6) := by decide
theorem test_decode_illegal80 :
    decodeTableWord 32 0b00000000000000000000000011111111 = some (.illegal80 0b1111111#7) := by decide
theorem test_decode_stageData :
    decodeTableWord 48 0b110000000010110000000000000000000000000101000001 = some (.stageData 0x41#8) := by
  decide
theorem test_decode_argWrite :
    decodeTableWord 48 0b110000000000100000010010001101000101011001111000
      = some (.argWrite 0x12345678#32) := by decide
theorem test_decode_roWrite :
    decodeTableWord 48 0b110000000001000000000000000000000000000000000101
      = some (.roWrite 0x010#13 0x00000005#32) := by decide
theorem test_decode_read :
    decodeTableWord 48 0b010100000000010000000000000000000000000000000000 = some (.read 0x1004#13) := by
  decide
theorem test_decode_rejects_byte_access :
    decodeTableWord 48 0b100000000000010000000000000000000000000000000001 = none := by decide
theorem test_decode_rejects_misaligned :
    decodeTableWord 48 0b110000000000101000000000000000000000000000000001 = none := by decide

/-! One step of each instruction. -/

theorem test_nop_after_failure :
    after (exec .nop { State.reset with err := .invalidInput, result := 5 })
      (fun t => (t.err, t.result)) = some (.noError, 0#32) := by decide
theorem test_nop_keeps_overrun :
    after (exec .nop { State.reset with overrun := true, stageOvf := true })
      (fun t => (t.overrun, t.stageOvf)) = some (true, true) := by decide

/-- R148's example: "AC-42" at M. -/
theorem test_setContent_ac42 :
    after (exec .setContent (staged ac42))
      (fun t => (t.mode, t.result, t.content.length, t.version)) =
    some (.alphanumeric, 0x2#32, 5, some 0) := by decide
/-- V-C9c. -/
theorem test_setContent_overflow :
    after (exec .setContent { staged ac42 with stageOvf := true })
      (fun t => (t.err, t.stage, t.stageOvf, t.content)) = some (.stageOverflow, [], false, []) := by decide

/-- V-R20, with another value in the ARG register than the latched one (R36). -/
theorem test_setEcLevel_hello_world :
    after (exec .setEcLevel { holding helloWorld .alphanumeric .m (some 0) with
        pending := some ⟨0x02#8, 3#32, 0⟩, arg := 0 })
      (fun t => (t.ecLevel, t.version, t.result)) = some (.h, some 1, 2#32) := by decide
/-- V-R21, and V-R22's operand: only ARG[1:0] is used. -/
theorem test_setEcLevel_empty :
    after (exec .setEcLevel { State.reset with arg := 0x00000106#32 })
      (fun t => (t.ecLevel, t.version, t.err)) = some (.q, none, .noError) := by decide

theorem test_getVersion :
    after (exec .getVersion (holding helloWorld .alphanumeric .h (some 1)))
      (fun t => (t.result, t.err)) = some (2#32, .noError) := by decide
theorem test_getVersion_empty :
    after (exec .getVersion State.reset) (fun t => (t.result, t.err)) = some (0#32, .noError) := by decide

set_option maxRecDepth 4000 in
/-- V-F5: the output words of "HELLO WORLD" at Q. -/
theorem test_getFinalData_hello_world :
    after (exec .getFinalData (holding helloWorld .alphanumeric .q (some 0)))
      (fun t => (t.result, readLoc t (.out 0), readLoc t (.out 1), readLoc t (.out 2))) =
    some (78#32, 0x205B0B78#32, 0xD172DC4D#32, 0x43400000#32) := by decide
/-- V-F13. -/
theorem test_getFinalData_empty :
    after (exec .getFinalData State.reset) (fun t => (t.err, t.result, t.outValid, t.fault)) =
    some (.invalidVersion, 0#32, false, false) := by decide

/-- V-C10 and V-C11, for any content of the length: 7089 bytes of Numeric content pass, 7090 fail. -/
theorem test_validateLength_at_ceiling (c : List Byte) (h : c.length = 7089) :
    after (exec .validateLength (holding c .numeric .m none)) (fun t => t.err) = some .noError := by
  have ok : lenOk c.length .numeric = true := by rw [h]; decide
  show some (if lenOk c.length .numeric then _ else _ : State).err = _
  rw [if_pos ok]; rfl
theorem test_validateLength_above_ceiling (c : List Byte) (h : c.length = 7090) :
    after (exec .validateLength (holding c .numeric .m none)) (fun t => t.err) = some .invalidLength := by
  have bad : ¬ lenOk c.length .numeric = true := by rw [h]; decide
  show some (if lenOk c.length .numeric then _ else _ : State).err = _
  rw [if_neg bad]; rfl

/-- V-K4. -/
theorem test_stageClear :
    after (exec .stageClear { staged ac42 with stageOvf := true })
      (fun t => (t.stage, t.stageOvf, t.err)) = some ([], false, .noError) := by decide

/-- V-K5. -/
theorem test_softReset_from_versioned :
    after (exec .softReset { holding helloWorld .alphanumeric .h (some 1) with
        overrun := true, fault := true, arg := 3 })
      (fun t => (readLoc t .status, t.ecLevel, t.mode, t.version, t.arg)) =
    some (0#32, .m, .numeric, none, 0#32) := by decide

/-- V-K2. -/
theorem test_illegal08 :
    after (exec (.illegal08 0#3) State.reset) (fun t => (t.err, t.result, t.fault)) =
    some (.badCommand, 0#32, false) := by decide
theorem test_illegal10 :
    after (exec (.illegal10 0#4) faulted) (fun t => (t.err, t.result)) = some (.internal, 0#32) := by decide
theorem test_illegal20 :
    after (exec (.illegal20 0#5) State.reset) (fun t => t.err) = some .badCommand := by decide
theorem test_illegal40 :
    after (exec (.illegal40 0#6) State.reset) (fun t => t.err) = some .badCommand := by decide
theorem test_illegal80 :
    after (exec (.illegal80 0x7F#7) State.reset) (fun t => t.err) = some .badCommand := by decide

/-- V-K11, through the bus: bits 31:8 are ignored. -/
theorem test_stageData_appends :
    after (step { staged [0x41#8, 0x43#8] with host := [.access (writeWord 0x02C#13 0x00000141#32)] })
      (fun t => (t.stage, t.host)) = some ([0x41#8, 0x43#8, 0x41#8], []) := by decide
theorem test_stageData_dropped_when_busy :
    after (exec (.stageData 0x41#8) (busyWith 0#8 0#32 1))
      (fun t => (t.stage, t.overrun)) = some ([], true) := by decide

/-- V-K10. -/
theorem test_argWrite :
    after (exec (.argWrite 0x12345678#32) State.reset) (fun t => readLoc t (locOf 0x008#13)) =
    some 0x12345678#32 := by decide
theorem test_argWrite_dropped_when_busy :
    after (exec (.argWrite 5#32) (busyWith 0#8 0#32 1)) (fun t => (t.arg, t.overrun)) =
    some (0#32, true) := by decide

/-- V-K8. -/
theorem test_roWrite_ignored :
    after (exec (.roWrite 0x010#13 5#32) { State.reset with err := .badCommand })
      (fun t => (t.err, t.rsp)) = some (.badCommand, some ⟨0#32, false⟩) := by decide

/-- V-K6. -/
theorem test_read_id :
    after (exec (.read 0x000#13) (busyWith 0#8 0#32 1)) (fun t => t.rsp) =
    some (some ⟨0x51524445#32, false⟩) := by decide
/-- R61 while BUSY: a reserved offset reads 0. -/
theorem test_read_reserved_while_busy :
    after (exec (.read 0x0FFC#13) (busyWith 0#8 0#32 1)) (fun t => t.rsp) =
    some (some ⟨0#32, false⟩) := by decide
/-- STATUS after "0" was committed and formatted is 0xE0 (95_test_vectors.md). -/
theorem test_read_status :
    after (exec (.read 0x00C#13) { holding [0x30#8] .numeric .m (some 0) with outValid := true })
      (fun t => t.rsp) = some (some ⟨0xE0#32, false⟩) := by decide

/-- V-K2 from reset: the word 0x000000FF, placed as the next instruction, ends with BAD_COMMAND. -/
theorem test_fetchWord_illegal :
    after (step (State.reset.withFetchWord 32 0x000000FF)) (fun t => (t.err, t.pending)) =
    some (.badCommand, none) := by decide
/-- V-K11 from reset, as a request word. -/
theorem test_fetchWord_stageData :
    after (step (State.reset.withFetchWord 48 0b110000000010110000000000000000000000000101000001))
      (fun t => t.stage) = some [0x41#8] := by decide

/-! The functions the commands use. -/

/-- V-C4, V-C5 and V-C7: a space, the nine symbols but space, and a lower-case letter. -/
theorem test_classify :
    classify [0x31#8, 0x32#8, 0x20#8, 0x33#8, 0x34#8] = .alphanumeric ∧
    classify [0x24#8, 0x25#8, 0x2A#8, 0x2B#8, 0x2D#8, 0x2E#8, 0x2F#8, 0x3A#8] = .alphanumeric ∧
    classify [0x61#8, 0x31#8] = .byte ∧ classify [0xFF#8] = .byte ∧ classify digits8 = .numeric := by decide
/-- V-R1, V-R2, V-R8, V-R9, V-R10. -/
theorem test_resolve :
    resolve Params.default 7089 .numeric .l = some 39 ∧ resolve Params.default 7090 .numeric .l = none ∧
    resolve Params.default 432 .numeric .m = some 8 ∧ resolve Params.default 433 .numeric .m = some 9 ∧
    resolve Params.default 181 .byte .m = some 9 ∧ resolve Params.default 11 .alphanumeric .h = some 1 := by
  decide
/-- V-P8, V-P11, V-P14 and V-P16, as numbers of the stated widths. -/
theorem test_packers :
    packNum digits8 = some [binW 10 12, binW 10 345, binW 7 67] ∧
    packAlnum [0x3A#8, 0x3A#8] = some [binW 11 2024] ∧
    packAlnum [0x31#8, 0x32#8, 0x20#8, 0x33#8, 0x34#8] = some [binW 11 47, binW 11 1623, binW 6 4] ∧
    packByte [0xC3#8, 0xA9#8] =
      [[true, true, false, false, false, false, true, true], [true, false, true, false, true, false, false, true]]
    := by decide
/-- V-F1 in full: 0001 0000000110 0001111011 0111001000 0000. -/
theorem test_final_123456 :
    (final Params.default digits6 .numeric .m 0).map (fun bits => (bits.length, bitsToNat bits)) =
    some (38, 0b00010000000110000111101101110010000000) := by decide
set_option maxRecDepth 4000 in
/-- V-T3: 26 digits at Q leave a terminator of three bits. -/
theorem test_terminator_of_three :
    (final Params.default ((List.replicate 13 [0x32#8, 0x36#8]).flatten) .numeric .q 0).map
      (fun bits => (bits.length, bitsToNat bits)) =
    some (104, 0x1069069C9069C9069C9069C8D0) := by decide

/-! Witnesses: a concrete state and operands for the hypotheses of each statement of
Certificates/Slice0/Obligations.lean, clause by clause, at the boundary of a range where there is one. -/

/-- Default ROMs with the smallest buffers R7 allows: 7089 bytes, and 739 words for the 23648 bits of the
largest DCW_ROM entry. -/
def smallest : Params := { Params.default with stageDepth := 7089, outWords := 739 }

theorem smallest_lawful : smallest.Lawful where
  stageDepth_ge := by decide
  stageDepth_le := by decide
  outWords_le := by decide
  cap_lt := by intro v e m; revert v; cases e <;> cases m <;> decide
  dcw_lt := by intro v e; revert v; cases e <;> decide
  cap_version := by
    have next : ∀ k : Fin 39, ∀ e m, smallest.cap k.castSucc e m < smallest.cap k.succ e m := by
      intro k e m; revert k; cases e <;> cases m <;> decide
    intro v w h e m
    have hv : v.val < 39 := by omega
    rw [show w = Fin.succ ⟨v.val, hv⟩ from Fin.ext h.symm]
    exact next ⟨v.val, hv⟩ e m
  cap_level := by intro v m; revert v; cases m <;> decide
  cci_fits := by intro v e m; revert v; cases e <;> cases m <;> decide
  data_fits := by intro v e m; revert v; cases e <;> cases m <;> decide
  out_fits := by intro v e; revert v; cases e <;> decide

/-- "1" committed at M with the smallest buffers, the stage full of 7089 bytes and overflowed. -/
def full : State :=
  { holding [0x31#8] .numeric .m (some 0) with
    params := smallest, stage := List.replicate 7089 0x31#8, stageOvf := true }

theorem full_inv : Inv full where
  memory := by
    simp only [Memory.wf, full, smallest, List.length_replicate]; decide
  overflow := fun _ => List.length_replicate
  empty := by intro h; cases h
  resolved := fun _ => ⟨by decide, by decide⟩
  output := by intro h; cases h
  noOutput := fun _ => rfl
  polled := fun _ => rfl

/-- An input queue with one access. -/
def presenting (r : Request) (s : State) : State := { s with host := [.access r] }

theorem test_witness_nop :
    State.reset.fault = false ∧ State.reset.pending = none ∧
    (presenting (writeWord 0x004#13 0x00000000#32) State.reset).host =
      .access (writeWord 0x004#13 0x00000000#32) :: [] := ⟨rfl, rfl, rfl⟩

theorem test_witness_setContent :
    (full.fault = false ∧ full.stageOvf = true) ∧
    (State.reset.fault = false ∧ State.reset.stageOvf = false ∧ State.reset.stage = []) ∧
    ((staged [0x00#8]).fault = false ∧ (staged [0x00#8]).stageOvf = false ∧ (staged [0x00#8]).stage ≠ []) := by
  decide

/-- A content one above the ceiling of H, and one at it. -/
theorem test_witness_setEcLevel :
    (∀ n, (holding (List.replicate n 0x31#8) .numeric .h none).content.length = n) ∧
    (busyWith 0x02#8 3#32 0).pending = some ⟨0x02#8, 3#32, 0⟩ ∧ State.reset.pending = none ∧
    ecLevelOf ((latchedArg (busyWith 0x02#8 3#32 0)).extractLsb' 0 2) = .h ∧
    ceilLevel .h < 3058 ∧ 3057 ≤ ceilLevel .h :=
  ⟨fun _ => List.length_replicate, rfl, rfl, rfl, by decide, by decide⟩

theorem test_witness_getVersion :
    ∃ t u, State.reset.fault = false ∧ exec .getVersion State.reset = .next t ∧
      exec .getVersion t = .next u := ⟨_, _, rfl, rfl, rfl⟩

/-- V-X1: there is a state whose 256 bytes do not fit the 8-bit count of version 1. -/
theorem tooManyToCount : ∃ s : State, s.fault = false ∧ s.version = some 0 ∧
    final s.params s.content s.mode s.ecLevel 0 = none := by
  obtain ⟨c, hc⟩ : ∃ c : List Byte, c.length = 256 := ⟨List.replicate 256 0x61#8, List.length_replicate⟩
  refine ⟨holding c .byte .m (some 0), rfl, rfl, final_eq_none ?_⟩
  show 2 ^ cciWidth 0 .byte ≤ c.length
  rw [hc]; decide

/-- V-F9, whose stream is exactly one word. -/
def oneWord : State :=
  { holding [0xC3#8, 0xA9#8] .byte .m (some 0) with params := { Params.default with outWords := 1 } }

theorem test_witness_getFinalData :
    (State.reset.fault = false ∧ State.reset.version = none) ∧
    (∃ s : State, s.fault = false ∧ s.version = some 0 ∧
      final s.params s.content s.mode s.ecLevel 0 = none) ∧
    (∃ bits, final oneWord.params (0x31#8 :: oneWord.content) oneWord.mode oneWord.ecLevel 0 = some bits ∧
      oneWord.params.outWords * 32 < bits.length) ∧
    (∃ bits, final oneWord.params oneWord.content oneWord.mode oneWord.ecLevel 0 = some bits ∧
      bits.length ≤ oneWord.params.outWords * 32) :=
  ⟨⟨rfl, rfl⟩, tooManyToCount, ⟨_, rfl, by decide⟩, ⟨_, rfl, by decide⟩⟩

theorem test_witness_validateLength :
    (∀ n, (holding (List.replicate n 0x31#8) .numeric .m none).content.length = n) ∧
    7089 ≤ ceilMode .numeric ∧ ceilMode .numeric < 7090 :=
  ⟨fun _ => List.length_replicate, by decide, by decide⟩

theorem test_witness_illegal :
    (8 ≤ ((0xFFFFFF08#32).extractLsb' 0 8).toNat ∧ 8 ≤ ((0x000000FF#32).extractLsb' 0 8).toNat) ∧
    State.reset.fault = false := by decide

/-- A stage with room for its last byte, a full one, and BUSY. -/
theorem test_witness_stageData :
    ({ State.reset with params := { Params.default with stageDepth := 1 } }.pending = none ∧
      ({ State.reset with params := { Params.default with stageDepth := 1 } } : State).stage.length <
        ({ State.reset with params := { Params.default with stageDepth := 1 } } : State).params.stageDepth) ∧
    ({ staged [0x31#8] with params := { Params.default with stageDepth := 1 } }.pending = none ∧
      ({ staged [0x31#8] with params := { Params.default with stageDepth := 1 } } : State).params.stageDepth ≤
        ({ staged [0x31#8] with params := { Params.default with stageDepth := 1 } } : State).stage.length) ∧
    (busyWith 0#8 0#32 0).pending ≠ none := by decide

theorem test_witness_argWrite : State.reset.pending = none ∧ (busyWith 0#8 0#32 0).pending ≠ none := by decide

theorem test_witness_roWrite :
    (0x000#13 ∈ ([0x000#13, 0x00C#13, 0x010#13, 0x014#13, 0x018#13, 0x01C#13, 0x020#13, 0x024#13, 0x028#13,
      0x030#13, 0x034#13] : List Offset)) ∧
    (0x1000 ≤ (0x1000#13 : Offset).toNat ∧ aligned 0x1000#13 = true) ∧
    (0x1000 ≤ (0x1FFC#13 : Offset).toNat ∧ aligned 0x1FFC#13 = true) := by decide

/-- Reads: at rest, while BUSY of a place other than ID and STATUS, and the reserved offsets' ends. -/
theorem test_witness_read :
    (aligned 0x1FFC#13 = true ∧ State.reset.pending = none) ∧
    (aligned 0x004#13 = true ∧ (busyWith 0#8 0#32 0).pending ≠ none ∧ (0x004#13 : Offset) ≠ 0x000#13 ∧
      (0x004#13 : Offset) ≠ 0x00C#13) ∧
    (0x038 ≤ (0x038#13 : Offset).toNat ∧ (0x038#13 : Offset).toNat ≤ 0xFFC) ∧
    (0x038 ≤ (0xFFC#13 : Offset).toNat ∧ (0xFFC#13 : Offset).toNat ≤ 0xFFC) := by decide

/-- With 1023 window words: the last word that is free, and the first that reads 0. -/
theorem test_witness_readWhileBusy :
    (busyWith 0#8 0#32 0).pending ≠ none ∧ aligned 0x000#13 = true ∧ locOf 0x000#13 = .id ∧
    aligned 0x00C#13 = true ∧ locOf 0x00C#13 = .status ∧ aligned 0x038#13 = true ∧
    locOf 0x038#13 = .reserved ∧ aligned 0x1FFC#13 = true ∧ locOf 0x1FFC#13 = .out 1023 ∧ 1023 ≤ 1023 ∧
    aligned 0x1FF8#13 = true ∧ locOf 0x1FF8#13 = .out 1022 ∧ 1022 < 1023 := by decide

/-- The last reserved offset, and the last window word where the window is one word short. -/
theorem test_witness_reserved :
    aligned 0xFFC#13 = true ∧
    (0x038 ≤ (0xFFC#13 : Offset).toNat ∧ (0xFFC#13 : Offset).toNat ≤ 0xFFC) ∧
    aligned 0x1FFC#13 = true ∧ 0x1000 + 4 * 1023 ≤ (0x1FFC#13 : Offset).toNat := by decide

/-- Window word 0 of a one-word output: its first and last stream bit, and a word past the output. -/
theorem test_witness_outputWindow :
    oneWord.pending = none ∧ (0x1000#13 : Offset).toNat = 0x1000 + 4 * 0 ∧ 0 < oneWord.params.outWords ∧
    32 * 0 + 31 < ({ oneWord with out := List.replicate 32 true } : State).out.length ∧
    oneWord.out.length ≤ 32 * 0 + 0 ∧ (0x1FFC#13 : Offset).toNat = 0x1000 + 4 * 1023 ∧
    1023 < State.reset.params.outWords := by decide

theorem test_witness_busError :
    (presenting ⟨true, 0x004#13, 0#2, 0#32⟩ State.reset).host = .access ⟨true, 0x004#13, 0#2, 0#32⟩ :: [] ∧
    (0#2 : BitVec 2) ≠ 2#2 ∧ (0x00A#13 : Offset).extractLsb' 0 2 ≠ 0#2 ∧ State.reset.pending = none ∧
    (presenting ⟨true, 0x00A#13, 2#2, 1#32⟩ (busyWith 0#8 0#32 1)).pending = some ⟨0#8, 0#32, 0 + 1⟩ := by
  decide

theorem test_witness_commandIssue :
    (presenting (writeWord 0x004#13 1#32) State.reset).host = .access (writeWord 0x004#13 1#32) :: [] ∧
    State.reset.pending = none ∧ (busyWith 1#8 0#32 1).pending = some ⟨1#8, 0#32, 0 + 1⟩ ∧
    CommitsNext 1#8 (busyWith 1#8 0#32 0) :=
  ⟨rfl, rfl, rfl, nofun, _, rfl⟩

theorem test_witness_stepRuns :
    decodeRequest (writeWord 0x02C#13 0x41#32) = .ok (.stageData 0x41#8) ∧
    isCommand (.stageData 0x41#8) = false := by decide

theorem test_witness_fetchWord :
    (Instr.read 0x1FFC#13).wellFormed = true ∧ isCommand (.read 0x1FFC#13) = false ∧
    isCommand (.illegal80 0x7F#7) = true := by decide

/-- A command with one cycle left and a reset that comes only after its commit. -/
theorem test_witness_everyCommandCommits :
    ∃ s : State, s.pending = some ⟨0x01#8, 0#32, 1⟩ ∧ (∀ k, k ≤ 1 → s.host[k]? ≠ some .rst) :=
  ⟨{ busyWith 0x01#8 0#32 1 with host := [.idle, .idle, .rst] }, rfl, by
    intro k hk
    have : k = 0 ∨ k = 1 := by omega
    rcases this with rfl | rfl <;> decide⟩

theorem test_witness_rst :
    (∃ t, (busyWith 0#8 0#32 0).pending = some ⟨0#8, 0#32, 0⟩ ∧ step (busyWith 0#8 0#32 0) = .next t) ∧
    (∃ t, (busyWith 0#8 0#32 1).pending = some ⟨0#8, 0#32, 1⟩ ∧ step (busyWith 0#8 0#32 1) = .next t) ∧
    ({ busyWith 0#8 0#32 1 with host := [.rst] } : State).host = .rst :: [] := ⟨⟨_, rfl, rfl⟩, ⟨_, rfl, rfl⟩, rfl⟩

theorem test_witness_faultGate :
    faulted.fault = true ∧ faulted.pending = none ∧ isCommand .getFinalData = true ∧
    Instr.getFinalData ≠ .softReset ∧ faulted.stage.length < faulted.params.stageDepth ∧
    aligned 0x1FFC#13 = true := by decide

theorem test_witness_stickyBits :
    (∃ t, step { faulted with host := [.rst] } = .next t ∧ faulted.fault = true ∧ t.fault = false) ∧
    (∃ t, step { busyWith 0x07#8 0#32 0 with overrun := true } = .next t ∧ t.overrun = false) :=
  ⟨⟨_, rfl, rfl, rfl⟩, ⟨_, rfl, rfl⟩⟩

/-- SET_CONTENT about to commit "a" over the empty content, and SET_EC_LEVEL about to commit L. -/
theorem test_witness_encoderWrites :
    (∃ t, step { busyWith 0x01#8 0#32 0 with stage := [0x61#8] } = .next t ∧ t.content ≠ [] ∧
      t.mode ≠ .numeric ∧ t.version ≠ none) ∧
    (∃ t, step (busyWith 0x02#8 0#32 0) = .next t ∧ t.ecLevel ≠ .m) ∧
    ¬ ResetsNext (busyWith 0x02#8 0#32 0) ∧ ¬ CommitsNext 0x07#8 (busyWith 0x02#8 0#32 0) := by
  refine ⟨⟨_, rfl, by decide, by decide, by decide⟩, ⟨_, rfl, by decide⟩, nofun, ?_⟩
  rintro ⟨_, arg, h⟩
  have op := congrArg (Option.map Pending.opcode) h
  revert op; simp [busyWith]

theorem test_witness_noStepChangesTheRoms : ∃ t, step State.reset = .next t := ⟨_, rfl⟩

theorem test_witness_idle :
    State.reset.pending = none ∧ ({ State.reset with host := [.idle] } : State).host = .idle :: [] ∧
    State.reset.host = [] := ⟨rfl, rfl, rfl⟩

/-- A CMD write at rest and one while BUSY, a poll at rest that ends the wait, and an ended run. -/
theorem test_witness_runEnds :
    ((presenting (writeWord 0x004#13 0#32) State.reset).pending = none ∧
      (∀ opcode arg, (busyWith 0#8 0#32 1).pending ≠ some ⟨opcode, arg, 0⟩)) ∧
    (∃ t, step { presenting ⟨false, 0x00C#13, 2#2, 0#32⟩ State.reset with polled := false } = .next t ∧
      t.polled = true) ∧
    (∃ t, Inv full ∧ RunEnded full ∧ ¬ ResetsNext full ∧ step full = .next t) :=
  ⟨⟨rfl, nofun⟩, ⟨_, rfl, rfl⟩, _, full_inv, ⟨nofun, rfl⟩, nofun, rfl⟩

theorem test_witness_decodeEncode :
    (Instr.roWrite 0x1FFC#13 0xFFFFFFFF#32).wellFormed = true ∧ (Instr.illegal80 0x7F#7).wellFormed = true ∧
    decodeRequest (writeWord 0x1FFC#13 0#32) = .ok (.roWrite 0x1FFC#13 0#32) := by decide

theorem test_witness_invariants : ∃ t, Inv full ∧ step full = .next t := ⟨_, full_inv, rfl⟩

theorem test_witness_lawfulRoms :
    ∃ t, full.params.Lawful ∧ Inv full ∧ step full = .next t ∧ full.fault = false :=
  ⟨_, smallest_lawful, full_inv, rfl, rfl⟩

/-- In VERSIONED, and without a version. -/
theorem test_witness_getFinalDataSucceeds :
    (full.params.Lawful ∧ Inv full ∧ full.fault = false ∧ full.version = some 0) ∧
    ∃ s : State, s.params.Lawful ∧ Inv s ∧ s.fault = false ∧ s.version = none := by
  refine ⟨⟨smallest_lawful, full_inv, rfl, rfl⟩,
    { State.reset with params := smallest, ecLevel := .h }, smallest_lawful, ?_, rfl, rfl⟩
  exact ⟨by decide, nofun, fun _ => ⟨rfl, rfl⟩, fun h => absurd rfl h, nofun, fun _ => rfl, fun _ => rfl⟩

theorem test_witness_final :
    ∃ bits, final Params.default [0x30#8] .numeric .m 0 = some bits := ⟨_, rfl⟩

theorem test_witness_final_twice :
    ∃ bits, final Params.default [0x41#8] .alphanumeric .m 0 = some bits ∧
      final Params.default [0x41#8] .alphanumeric .m 0 = some bits := ⟨_, rfl, rfl⟩

theorem test_witness_packedData :
    (∃ d, data digits8 .numeric = some d) ∧ (∃ d, data ac42 .alphanumeric = some d) ∧
    (∃ d, data [0xFF#8] .byte = some d) ∧ 0 < 1 := ⟨⟨_, rfl⟩, ⟨_, rfl⟩, ⟨_, rfl⟩, Nat.one_pos⟩

theorem test_witness_packers :
    digitValue 0x39#8 = some 9 ∧ packNum [] = some [] ∧ alnumValue 0x3A#8 = some 44 ∧ packAlnum [] = some [] ∧
    packNum digits6 = some [binW 10 123, binW 10 456] := by decide

/-- The first and the last version of each range. -/
theorem test_witness_countWidths :
    versionNumber 8 ≤ 9 ∧ 10 ≤ versionNumber 9 ∧ versionNumber 25 ≤ 26 ∧ 27 ≤ versionNumber 26 := by decide

theorem test_witness_classifier :
    digits8 ≠ [] ∧ (∃ b ∈ [0x31#8, 0x61#8], 0x61 ≤ b.toNat) := by decide

/-- A count resolvable at L and M, one above every capacity, and two counts at one level. -/
theorem test_witness_resolverIsMonotone :
    (∀ v w : Version, v.val + 1 = w.val → ∀ e, smallest.cap v e .numeric < smallest.cap w e .numeric) ∧
    (∀ v, smallest.cap v .m .numeric < smallest.cap v .l .numeric ∧
      smallest.cap v .q .numeric < smallest.cap v .m .numeric ∧
      smallest.cap v .h .numeric < smallest.cap v .q .numeric) ∧
    (ecLevelCode .l).toNat < (ecLevelCode .m).toNat ∧
    resolve smallest 5596 .numeric .l = some 35 ∧ resolve smallest 5596 .numeric .m = some 39 ∧
    resolve smallest 7090 .numeric .l = none ∧ 1 ≤ 7089 ∧ resolve smallest 7089 .numeric .l = some 39 :=
  ⟨fun v w h e => smallest_lawful.cap_version v w h e .numeric, fun v => smallest_lawful.cap_level v .numeric,
    by decide, by decide, by decide, by decide, by decide, by decide⟩

/-- SET_EC_LEVEL about to commit in EMPTY, and a state that is not EMPTY. -/
theorem test_witness_stateMachine :
    (∃ t, step { busyWith 0x01#8 0#32 0 with stage := [0x61#8] } = .next t ∧
      stateField t ≠ stateField (busyWith 0x01#8 0#32 0)) ∧
    stateField full ≠ 0 ∧ CommitsNext 0x02#8 (busyWith 0x02#8 0#32 0) ∧
    stateField (busyWith 0x02#8 0#32 0) = 0 :=
  ⟨⟨_, rfl, by decide⟩, by decide, ⟨nofun, _, rfl⟩, by decide⟩

/-- A command that fails and touches nothing, and the three failures that do: the stage, the output, FAULT. -/
theorem test_witness_failedCommands :
    (∃ t, exec .setContent State.reset = .next t ∧ t.err ≠ .noError) ∧
    (∃ t, exec .setContent { staged ac42 with stageOvf := true } = .next t ∧ t.err ≠ .noError ∧
      t.stageOvf ≠ true) ∧
    (∃ t, exec .getFinalData { State.reset with outValid := true } = .next t ∧ t.err ≠ .noError ∧
      t.outValid ≠ true) ∧
    (∃ s t, s.fault = false ∧ exec .getFinalData s = .next t ∧ t.err ≠ .noError ∧ t.fault ≠ s.fault) := by
  refine ⟨⟨_, rfl, by decide⟩, ⟨_, rfl, by decide, by decide⟩, ⟨_, rfl, by decide, by decide⟩, ?_⟩
  obtain ⟨s, hf, hv, h⟩ := tooManyToCount
  refine ⟨s, raiseInternal s, hf, ?_, nofun, by rw [hf]; nofun⟩
  simp [exec, execGetFinalData, gated, getFinalDataBody, hf, hv, h]

theorem test_witness_commandCodes : ∃ t, exec .getFinalData faulted = .next t := ⟨_, rfl⟩

theorem test_witness_hostFaults :
    (∀ opcode arg, State.reset.pending ≠ some ⟨opcode, arg, 0⟩) ∧
    (presenting (writeWord 0x02C#13 1#32) (busyWith 0#8 0#32 1)).pending = some ⟨0#8, 0#32, 0 + 1⟩ ∧
    (∃ t, step (presenting ⟨true, 0x00A#13, 2#2, 1#32⟩ State.reset) = .next t ∧
      State.reset.hostFault = none ∧ t.hostFault ≠ none) ∧
    (∃ t, step (presenting (writeWord 0x02C#13 1#32) (busyWith 0#8 0#32 1)) = .next t ∧
      t.hostFault ≠ none) ∧
    ({ State.reset with hostFault := some .busError } : State).hostFault = some .busError :=
  ⟨nofun, rfl, ⟨_, rfl, rfl, by decide⟩, ⟨_, rfl, by decide⟩, rfl⟩

end Sys2Proof.Tests
end

section
/-! The invariants of R42 (Inv): the reset state has them, each operation a step is made of keeps them, and so
does a step. -/

namespace Sys2Proof.Machine

variable {s t : State}

/-- A reset gives every piece of state Inv speaks of its reset value, whatever the state was (R38). -/
theorem Inv.of_resetState (s : State) : Inv (resetState s) where
  memory := Memory.resetState_wf s
  overflow := nofun
  empty _ := ⟨rfl, rfl⟩
  resolved h := absurd rfl h
  output := nofun
  noOutput _ := rfl
  polled _ := rfl

/-- A command's end writes ERR, RESULT and BUSY only, and Inv asks of these only that a poll finds BUSY = 0. -/
theorem Inv.complete (h : Inv s) (code : ErrCode) (r : Word) : Inv (complete code r s) :=
  { h with polled := fun _ => rfl }

theorem Inv.clearStage (h : Inv s) : Inv (clearStage s) :=
  { h with memory := Memory.clearStage_wf h.memory, overflow := nofun }

theorem Inv.clearOutput (h : Inv s) : Inv (clearOutput s) :=
  { h with memory := Memory.clearOutput_wf h.memory, output := nofun, noOutput := fun _ => rfl }

theorem Inv.raiseInternal (h : Inv s) : Inv (raiseInternal s) := by
  have faulted : Inv { s with fault := true } := { h with }
  exact faulted.clearOutput.complete .internal 0

/-- The committed content is classified and resolved as it is stored, and the output is empty (R148, R210). -/
theorem Inv.commitStage (h : Inv s) (staged : s.stage ≠ []) : Inv (commitStage s) where
  memory := Memory.commitStage_wf h.memory
  overflow := nofun
  empty hc := absurd hc staged
  resolved _ := ⟨rfl, rfl⟩
  output := nofun
  noOutput _ := rfl
  polled _ := rfl

theorem Inv.setContentBody (h : Inv s) : Inv (setContentBody s) := by
  unfold Machine.setContentBody
  split
  · exact h.clearStage.complete .stageOverflow 0
  · split
    · exact h.complete .invalidInput 0
    · rename_i staged
      exact h.commitStage (by simpa using staged)

/-- RESOLVE has no version for the count 0 (R160). -/
@[simp] theorem resolve_zero (P : Params) (m : Mode) (e : EcLevel) : resolve P 0 m e = none := rfl

/-- The new level leaves CONTENT and MODE, and VERSION is resolved again for it (R161, R162). -/
theorem Inv.setEcLevelBody (h : Inv s) : Inv (setEcLevelBody s) := by
  unfold Machine.setEcLevelBody
  dsimp only
  split
  · exact h.complete .invalidLength 0
  · exact {
      memory := (Memory.clearOutput_wf h.memory : Memory.wf (Machine.clearOutput s) = true)
      overflow := h.overflow
      empty := fun hc => ⟨(h.empty hc).1, by
        have hc : s.content = [] := hc
        simp [hc]⟩
      resolved := fun hc => ⟨(h.resolved hc).1, rfl⟩
      output := nofun
      noOutput := fun _ => rfl
      polled := fun _ => rfl }

/-- Only a stream that FINAL gives for the stored version becomes a valid output (R209). -/
theorem Inv.getFinalDataBody (h : Inv s) : Inv (getFinalDataBody s) := by
  have wf := Memory.getFinalDataBody_wf h.memory
  unfold Machine.getFinalDataBody at wf ⊢
  split
  · exact h.clearOutput.complete .invalidVersion 0
  · rename_i v hv
    split
    · exact h.raiseInternal
    · rename_i bits hb
      split
      · exact h.raiseInternal
      · rename_i fits
        simp only [hv, hb, fits, if_false] at wf
        exact { h with
          memory := wf
          output := fun _ => ⟨v, hv, hb⟩
          noOutput := nofun
          polled := fun _ => rfl }

theorem Inv.validateLengthBody (h : Inv s) : Inv (validateLengthBody s) := by
  unfold Machine.validateLengthBody
  split
  · exact h.complete .noError 0
  · exact h.complete .invalidLength 0

theorem Inv.commandBody (h : Inv s) {i : Instr} (hi : isCommand i = true) : Inv (commandBody i s) := by
  cases i with
  | nop => exact h.complete .noError 0
  | setContent => exact h.setContentBody
  | setEcLevel => exact h.setEcLevelBody
  | getVersion => exact h.complete .noError _
  | getFinalData => exact h.getFinalDataBody
  | validateLength => exact h.validateLengthBody
  | stageClear => exact h.clearStage.complete .noError 0
  | softReset => exact .of_resetState s
  | illegal08 | illegal10 | illegal20 | illegal40 | illegal80 => exact h.complete .badCommand 0
  | stageData | argWrite | roWrite | read => cases hi

theorem Inv.gated (h : Inv s) {body : State → State} (hb : Inv (body s)) : Inv (gated body s) := by
  cases hf : s.fault with
  | true => rw [gated_of_fault body s hf]; exact h.complete .internal 0
  | false => rwa [gated_of_no_fault body s hf]

theorem Inv.exec_command (h : Inv s) {i : Instr} (hi : isCommand i = true) (he : exec i s = .next t) :
    Inv t := by
  rw [Machine.exec_command i s hi] at he
  cases he
  split
  · exact .of_resetState s
  · exact h.gated (h.commandBody hi)

/-- The stage may grow only where there is room, so an access keeps its size and what an overflow means. -/
theorem Inv.portEffect (h : Inv s) (e : PortEffect s t) : Inv t := by
  obtain ⟨fits, content, out⟩ := (Memory.wf_iff s).1 h.memory
  have stage : t.stage.length ≤ s.params.stageDepth ∧
      (t.stageOvf = true → t.stage.length = s.params.stageDepth) := by
    obtain ⟨hs, ho⟩ | ⟨b, room, hs, ho⟩ | ⟨full, hs, -⟩ := e.stage
    · rw [hs, ho]; exact ⟨fits, h.overflow⟩
    · rw [hs, ho, List.length_append]
      exact ⟨room, fun ovf => absurd (h.overflow ovf) room.ne⟩
    · rw [hs]; exact ⟨fits, fun _ => le_antisymm fits full⟩
  have polled := e.polled h.polled
  rw [e.frame]
  exact { h with
    memory := (Memory.wf_iff _).2 ⟨stage.1, content, out⟩
    overflow := stage.2
    polled := polled }

/-- The reset state is what a reset makes of it. -/
theorem Inv.reset : Inv State.reset := .of_resetState State.reset

/-- Settles O39: Inv after a reset, at the reset state itself. -/
theorem resetStateHasTheInvariants : Obligations.ResetStateHasTheInvariants := Inv.reset

/-- Settles O38: a step is a reset, the commit of a command or a cycle of the outside, and each keeps Inv. -/
theorem stepKeepsTheInvariants : Obligations.StepKeepsTheInvariants := by
  intro s t h hst
  obtain ⟨rest, -, rfl⟩ | ⟨op, -, he⟩ | ⟨-, e, -⟩ := step_cases hst
  · exact .of_resetState _
  · exact h.exec_command (isCommand_decodeOpcode op) he
  · exact h.portEffect e

end Sys2Proof.Machine
end

section
/-! Facts about a step, and the statements that follow from them: what it finds to do, one equation for each case;
what a cycle of the outside may change while BUSY; what a command may change. -/

namespace Sys2Proof.Machine

variable {s t : State}

/-! Which opcode names which command (R102). -/

theorem decodeOpcode_eq_setContent {op : BitVec 8} : decodeOpcode op = .setContent → op = 0x01#8 := by
  revert op; decide

theorem decodeOpcode_eq_setEcLevel {op : BitVec 8} : decodeOpcode op = .setEcLevel → op = 0x02#8 := by
  revert op; decide

theorem decodeOpcode_eq_softReset {op : BitVec 8} : decodeOpcode op = .softReset → op = 0x07#8 := by
  revert op; decide

/-! The equations of step, hostTurn and accept. -/

theorem resetsNext_of_rst {rest : List HostEvent} (hh : s.host = .rst :: rest) : ResetsNext s := by
  rw [ResetsNext, hh]; rfl

theorem not_resetsNext_of_access {r : Request} {rest : List HostEvent} (hh : s.host = .access r :: rest) :
    ¬ ResetsNext s := by
  simp [ResetsNext, hh]

theorem not_resetsNext_of_getElem? (hh : s.host[0]? ≠ some .rst) : ¬ ResetsNext s := by
  rwa [ResetsNext, List.head?_eq_getElem?]

theorem step_of_rest (hr : ¬ ResetsNext s) (hp : s.pending = none) : step s = hostTurn s := by
  unfold step
  split
  · rename_i rest hh
    exact absurd (resetsNext_of_rst hh) hr
  · rw [hp]

theorem step_of_busy (hr : ¬ ResetsNext s) {op : BitVec 8} {arg : Word} {k : Nat}
    (hp : s.pending = some ⟨op, arg, k + 1⟩) :
    step s = hostTurn { s with pending := some ⟨op, arg, k⟩ } := by
  unfold step
  split
  · rename_i rest hh
    exact absurd (resetsNext_of_rst hh) hr
  · rw [hp]; rfl

theorem hostTurn_access {r : Request} {rest : List HostEvent} (hh : s.host = .access r :: rest) :
    hostTurn s = accept r { s with host := rest } := by
  rw [hostTurn, hh]

theorem accept_of_error {r : Request} {e : DecodeError} (hd : decodeRequest r = .error e) (s : State) :
    accept r s = .next (busError s) := by
  rw [accept, hd]

theorem accept_of_command {r : Request} {i : Instr} (hd : decodeRequest r = .ok i)
    (hi : isCommand i = true) (s : State) : accept r s = .next (issue (opcodeOf r.wdata) s) := by
  simp only [accept, hd, hi, if_true]

theorem accept_of_port {r : Request} {i : Instr} (hd : decodeRequest r = .ok i)
    (hi : isCommand i = false) (s : State) : accept r s = exec i (notePoll i s) := by
  simp only [accept, hd, hi, Bool.false_eq_true, if_false]

/-- Settles O22: each part is an equation of the step at that place of the queue or of the pending command. -/
theorem stepRunsTheDecodedInstruction : Obligations.StepRunsTheDecodedInstruction := by
  refine ⟨fun s r i rest hh hd hi => ⟨fun hp => ?rest, fun op arg k hp => ?busy⟩, fun _ _ => step_commit⟩
  case rest =>
    rw [step_of_rest (not_resetsNext_of_access hh) hp, hostTurn_access hh, accept_of_port hd hi]
    simp [notePoll, State.busy, hp]
  case busy =>
    rw [step_of_busy (not_resetsNext_of_access hh) hp,
      hostTurn_access (s := { s with pending := some ⟨op, arg, k⟩ }) hh, accept_of_port hd hi,
      notePoll_of_busy _ _ rfl]

/-! A cycle while BUSY. -/

/-- All that the outside changes while BUSY: OVERRUN, the response, the queue and the model's own fields. -/
def BusyFrame (s t : State) : Prop :=
  t = { s with
    overrun := t.overrun, rsp := t.rsp, host := t.host, draws := t.draws, hostFault := t.hostFault
    polled := t.polled }

theorem BusyFrame.pending (h : BusyFrame s t) : t.pending = s.pending :=
  (congrArg State.pending h).trans rfl

/-- A port operation while BUSY writes no register but OVERRUN: its write is dropped or its read answered. -/
theorem exec_port_busyFrame {i : Instr} (hi : isCommand i = false) (hb : s.busy = true)
    (he : exec i s = .next t) : BusyFrame s t := by
  cases i with
  | stageData b =>
    simp only [exec, execStageData, hb, if_true] at he
    cases he; rfl
  | argWrite d =>
    simp only [exec, execArgWrite, hb, if_true] at he
    cases he; rfl
  | roWrite off d => cases he; rfl
  | read off =>
    simp only [exec, execRead, hb, if_true] at he
    cases he
    split
    · rfl
    · obtain ⟨d, h | h⟩ := readBusy_cases s (locOf off) <;> rw [h] <;> rfl
  | nop | setContent | setEcLevel | getVersion | getFinalData | validateLength | stageClear | softReset
  | illegal08 | illegal10 | illegal20 | illegal40 | illegal80 => cases hi

theorem issue_of_busy (op : BitVec 8) (hb : s.busy = true) :
    issue op s = dropWrite { s with polled := false } := by
  rw [issue, if_pos hb]

/-- Whatever access comes while BUSY, it is answered, and takes only itself from the queue. -/
theorem accept_busyFrame (r : Request) (hb : s.busy = true) :
    ∃ t, accept r s = .next t ∧ BusyFrame s t ∧ t.host = s.host := by
  cases hd : decodeRequest r with
  | error e => exact ⟨_, accept_of_error hd s, rfl, rfl⟩
  | ok i =>
    cases hi : isCommand i with
    | true =>
      refine ⟨_, accept_of_command hd hi s, ?_⟩
      rw [issue_of_busy _ hb]
      exact ⟨rfl, rfl⟩
    | false =>
      rw [accept_of_port hd hi, notePoll_of_busy s i hb]
      obtain ⟨t, ht, -, -, hh, -⟩ := exec_port i s hi
      exact ⟨t, ht, exec_port_busyFrame hi hb ht, hh⟩

theorem hostTurn_busyFrame (hr : ¬ ResetsNext s) (hb : s.busy = true) :
    ∃ t, hostTurn s = .next t ∧ BusyFrame s t ∧ t.host = s.host.tail := by
  unfold hostTurn
  split
  · rename_i hh
    exact ⟨s, rfl, rfl, by rw [hh]; rfl⟩
  · rename_i rest hh
    exact ⟨_, rfl, rfl, by rw [hh]; rfl⟩
  · rename_i rest hh
    exact absurd (resetsNext_of_rst hh) hr
  · rename_i r rest hh
    obtain ⟨t, ht, frame, queue⟩ := accept_busyFrame r (s := { s with host := rest }) hb
    exact ⟨t, ht, frame, by rw [queue, hh]; rfl⟩

/-- Everything the outside can do in a cycle that the pending command still waits. -/
theorem step_waits (hr : ¬ ResetsNext s) {op : BitVec 8} {arg : Word} {k : Nat}
    (hp : s.pending = some ⟨op, arg, k + 1⟩) :
    ∃ t, step s = .next t ∧ BusyFrame { s with pending := some ⟨op, arg, k⟩ } t ∧ t.host = s.host.tail := by
  rw [step_of_busy hr hp]
  exact hostTurn_busyFrame hr rfl

theorem run_succ_of_next {n : Nat} (h : step s = .next t) : core.run (n + 1) s = core.run n t := by
  have hs : core.step s = .next t := h
  simp only [Host.Core.run, hs]

/-- A command leaves BUSY = 0, whatever its outcome (R41). -/
theorem exec_command_pending {i : Instr} (hi : isCommand i = true) (s : State) :
    ∃ t, exec i s = .next t ∧ t.pending = none := by
  refine ⟨_, exec_command i s hi, ?_⟩
  obtain ⟨ended, -⟩ := commandBody_frame i s hi
  split
  · rfl
  · unfold gated
    split
    · rfl
    · exact ended

/-- Settles O24, by induction on the cycles that remain: each keeps the frame, and the last step is the commit. -/
theorem everyCommandCommitsAfterItsCycles : Obligations.EveryCommandCommitsAfterItsCycles := by
  intro s op arg n
  induction n generalizing s with
  | zero =>
    intro hp hrst
    have commits : CommitsNext op s := ⟨not_resetsNext_of_getElem? (hrst 0 le_rfl), arg, hp⟩
    obtain ⟨t, ht, ended⟩ := exec_command_pending (isCommand_decodeOpcode op) s
    exact ⟨s, t, rfl, by rw [← hp], ht, run_succ_of_next ((step_commit commits).trans ht), ended⟩
  | succ n ih =>
    intro hp hrst
    have noReset := not_resetsNext_of_getElem? (hrst 0 (Nat.zero_le _))
    obtain ⟨v, hv, frame, queue⟩ := step_waits noReset hp
    have later : ∀ k, k ≤ n → v.host[k]? ≠ some .rst := fun k hk => by
      rw [queue, List.getElem?_tail]
      exact hrst (k + 1) (Nat.succ_le_succ hk)
    obtain ⟨u, t, hu, hframe, ht, hrun, ended⟩ := ih v frame.pending later
    refine ⟨u, t, (run_succ_of_next hv).trans hu, ?_, ht, (run_succ_of_next hv).trans hrun, ended⟩
    rw [hframe, frame]

/-! What a command may change. -/

/-- What a command but SOFT_RESET may do to the flags that only a reset clears and to the encoder state: OVERRUN
stays, FAULT is not cleared; each register of the encoder state has its writers, and a VERSION that is written
is resolved for the state it is written into. -/
structure CommandEffect (i : Instr) (s t : State) : Prop where
  fault : s.fault = true → t.fault = true
  overrun : t.overrun = s.overrun
  content : i ≠ .setContent → t.content = s.content
  mode : i ≠ .setContent → t.mode = s.mode
  ecLevel : i ≠ .setEcLevel → t.ecLevel = s.ecLevel
  version : t.version = s.version ∨ ((i = .setContent ∨ i = .setEcLevel) ∧
    t.version = resolve t.params t.content.length t.mode t.ecLevel)

/-- The effect of a command that leaves the encoder state alone. -/
theorem CommandEffect.of_kept {i : Instr} (fault : s.fault = true → t.fault = true)
    (overrun : t.overrun = s.overrun) (content : t.content = s.content) (mode : t.mode = s.mode)
    (ecLevel : t.ecLevel = s.ecLevel) (version : t.version = s.version) : CommandEffect i s t :=
  ⟨fault, overrun, fun _ => content, fun _ => mode, fun _ => ecLevel, .inl version⟩

theorem setContentBody_effect (s : State) : CommandEffect .setContent s (setContentBody s) := by
  unfold setContentBody
  split
  · exact .of_kept id rfl rfl rfl rfl rfl
  · split
    · exact .of_kept id rfl rfl rfl rfl rfl
    · exact ⟨id, rfl, nofun, nofun, fun _ => rfl, .inr ⟨.inl rfl, rfl⟩⟩

theorem setEcLevelBody_effect (s : State) : CommandEffect .setEcLevel s (setEcLevelBody s) := by
  unfold setEcLevelBody
  dsimp only
  split
  · exact .of_kept id rfl rfl rfl rfl rfl
  · exact ⟨id, rfl, fun _ => rfl, fun _ => rfl, nofun, .inr ⟨.inr rfl, rfl⟩⟩

theorem getFinalDataBody_effect (s : State) : CommandEffect .getFinalData s (getFinalDataBody s) := by
  unfold getFinalDataBody
  split
  · exact .of_kept id rfl rfl rfl rfl rfl
  · split
    · exact .of_kept (fun _ => rfl) rfl rfl rfl rfl rfl
    · split
      · exact .of_kept (fun _ => rfl) rfl rfl rfl rfl rfl
      · exact .of_kept id rfl rfl rfl rfl rfl

theorem validateLengthBody_effect (s : State) : CommandEffect .validateLength s (validateLengthBody s) := by
  unfold validateLengthBody
  split <;> exact .of_kept id rfl rfl rfl rfl rfl

theorem commandBody_effect {i : Instr} (hi : isCommand i = true) (hs : i ≠ .softReset) (s : State) :
    CommandEffect i s (commandBody i s) := by
  cases i with
  | setContent => exact setContentBody_effect s
  | setEcLevel => exact setEcLevelBody_effect s
  | getFinalData => exact getFinalDataBody_effect s
  | validateLength => exact validateLengthBody_effect s
  | nop | getVersion | stageClear | illegal08 | illegal10 | illegal20 | illegal40 | illegal80 =>
    exact .of_kept id rfl rfl rfl rfl rfl
  | softReset => exact absurd rfl hs
  | stageData | argWrite | roWrite | read => cases hi

theorem exec_command_effect {i : Instr} (hi : isCommand i = true) (hs : i ≠ .softReset)
    (he : exec i s = .next t) : CommandEffect i s t := by
  rw [exec_command i s hi, if_neg hs] at he
  cases he
  unfold gated
  split
  · exact .of_kept id rfl rfl rfl rfl rfl
  · exact commandBody_effect hi hs s

/-- A step that is no reset is the commit of a command with its effect, or a cycle of the outside. -/
theorem step_cases_of_no_reset (h : step s = .next t) (hr : ¬ ResetsNext s) (hs : ¬ CommitsNext 0x07#8 s) :
    (∃ op, CommitsNext op s ∧ CommandEffect (decodeOpcode op) s t) ∨ PortEffect s t := by
  obtain ⟨rest, hh, -⟩ | ⟨op, hc, he⟩ | ⟨-, e, -⟩ := step_cases h
  · exact absurd (resetsNext_of_rst hh) hr
  · have notReset : decodeOpcode op ≠ .softReset := fun hd =>
      hs (decodeOpcode_eq_softReset hd ▸ hc)
    exact .inl ⟨op, hc, exec_command_effect (isCommand_decodeOpcode op) notReset he⟩
  · exact .inr e

/-- Settles O28: no command but SOFT_RESET and no access clears FAULT or OVERRUN. -/
theorem onlyResetClearsFaultAndOverrun : Obligations.OnlyResetClearsFaultAndOverrun := by
  intro s t hst cleared
  by_contra hn
  obtain ⟨hr, hs⟩ := not_or.1 hn
  have kept : (s.fault = true → t.fault = true) ∧ (s.overrun = true → t.overrun = true) := by
    obtain ⟨op, -, e⟩ | e := step_cases_of_no_reset hst hr hs
    · exact ⟨e.fault, fun ho => e.overrun.trans ho⟩
    · exact ⟨fun hf => (congrArg State.fault e.frame).trans hf, e.overrun⟩
  obtain ⟨hf, hf'⟩ | ⟨ho, ho'⟩ := cleared
  · exact absurd (kept.1 hf) (by rw [hf']; nofun)
  · exact absurd (kept.2 ho) (by rw [ho']; nofun)

/-- Settles O29: a register that changed was written by a command that may write it, so that command's opcode
commits. -/
theorem onlyTheNamedCommandsWriteEncoderState : Obligations.OnlyTheNamedCommandsWriteEncoderState := by
  intro s t hst hr hs
  obtain ⟨op, hc, e⟩ | e := step_cases_of_no_reset hst hr hs
  · have isSetContent : decodeOpcode op = .setContent → CommitsNext 0x01#8 s := fun hd =>
      decodeOpcode_eq_setContent hd ▸ hc
    have isSetEcLevel : decodeOpcode op = .setEcLevel → CommitsNext 0x02#8 s := fun hd =>
      decodeOpcode_eq_setEcLevel hd ▸ hc
    refine ⟨fun hne => ?_, fun hne => ?_, fun hne => ?_, fun hne => ?_, fun hne => ?_⟩
    · exact isSetContent (not_imp_comm.1 e.content hne)
    · exact isSetContent (not_imp_comm.1 e.mode hne)
    · exact isSetEcLevel (not_imp_comm.1 e.ecLevel hne)
    · exact (e.version.resolve_left hne).1.imp isSetContent isSetEcLevel
    · exact (e.version.resolve_left hne).2
  · rw [e.frame]
    exact ⟨fun h => absurd rfl h, fun h => absurd rfl h, fun h => absurd rfl h, fun h => absurd rfl h,
      fun h => absurd rfl h⟩

end Sys2Proof.Machine
end

section
/-! What the registers read as: the fields of STATUS, the counts, and a read while BUSY. -/

namespace Sys2Proof.Machine

/-- STATUS bit by bit: the four flags, then the bits of `high`, then zeros (R25). -/
theorem statusFrom_getLsbD (s : State) (high : BitVec 4) (i : Nat) :
    (statusFrom s high).getLsbD i =
      match i with
      | 0 => s.busy
      | 1 => s.fault
      | 2 => s.stageOvf
      | 3 => s.overrun
      | j + 4 => high.getLsbD j := by
  simp only [statusFrom, BitVec.getLsbD_setWidth, BitVec.getLsbD_append, BitVec.getLsbD_ofBool]
  match i with
  | 0 | 1 | 2 | 3 => simp
  | j + 4 =>
    have inHigh : high.getLsbD j = true → j + 4 < 32 := fun h => by
      have := BitVec.lt_of_getLsbD h
      omega
    simpa using inHigh

theorem statusFrom_high (s : State) (high : BitVec 4) (j : Nat) :
    (statusFrom s high).getLsbD (4 + j) = high.getLsbD j := by
  rw [Nat.add_comm]
  exact statusFrom_getLsbD s high (j + 4)

theorem statusFrom_reserved (s : State) (high : BitVec 4) : (statusFrom s high).extractLsb' 8 24 = 0 := by
  apply BitVec.eq_of_getLsbD_eq
  intro i hi
  rw [BitVec.getLsbD_extractLsb', Nat.add_assoc 4 4 i, statusFrom_high,
    BitVec.getLsbD_of_ge high (4 + i) (Nat.le_add_right 4 i), Bool.and_false]
  exact BitVec.getLsbD_zero.symm

/-- The fields of STATUS[7:4] at rest (R25). -/
theorem statusIdle_state (s : State) : (statusIdle s).extractLsb' 4 2 = stateField s := by
  apply BitVec.eq_of_getLsbD_eq
  intro i hi
  rw [BitVec.getLsbD_extractLsb', statusIdle, statusFrom_high, statusHigh, BitVec.getLsbD_append]
  simp only [hi, decide_true, Bool.true_and, if_true]

theorem statusIdle_versionValid (s : State) : (statusIdle s).getLsbD 6 = s.version.isSome := by
  rw [statusIdle, statusFrom_getLsbD]
  simp only [statusHigh, BitVec.getLsbD_append, BitVec.getLsbD_ofBool]
  simp

theorem statusIdle_outValid (s : State) : (statusIdle s).getLsbD 7 = s.outValid := by
  rw [statusIdle, statusFrom_getLsbD]
  simp only [statusHigh, BitVec.getLsbD_append, BitVec.getLsbD_ofBool]
  simp

/-- STATUS.STATE at rest is never CLASSIFIED (R37). -/
theorem stateField_toNat (s : State) :
    (stateField s).toNat = if s.content.length = 0 then 0 else if s.version ≠ none then 2 else 3 := by
  unfold stateField
  cases s.content <;> cases s.version <;> rfl

/-- A count reads as its low 16 bits (log 21). -/
theorem count16_toNat (n : Nat) : (count16 n).toNat = n % 2 ^ 16 := by
  rw [count16, BitVec.toNat_setWidth, BitVec.toNat_ofNat]
  omega

/-- The VERSION register holds 0 or a number up to 40 whole (R30). -/
theorem versionValue_toNat (v : Option Version) : (BitVec.ofNat 32 (versionValue v)).toNat = versionValue v := by
  apply Nat.mod_eq_of_lt
  cases v with
  | none => decide
  | some v => simp only [versionValue, versionNumber]; omega

/-- Settles O14: each offset names its place, whose value is the register's. -/
theorem registerOffsetsReadTheirState : Obligations.RegisterOffsetsReadTheirState := by
  intro s
  simp only [locOf_id, locOf_arg, locOf_err, locOf_result, locOf_mode, locOf_ecLevel, locOf_version,
    locOf_contentLen, locOf_stageLen, locOf_outBitlen, locOf_reqBits, readLoc, count16_toNat,
    versionValue_toNat, true_and]
  refine ⟨rfl, ?err, ?mode, ?ecLevel, ?version, ?reqBits⟩
  case err => cases s.err <;> rfl
  case mode => cases s.mode <;> rfl
  case ecLevel => cases s.ecLevel <;> rfl
  case version => cases s.version <;> rfl
  case reqBits => rw [reqBits]; cases s.version <;> rfl

/-- Settles O15: the four flags are bits of `statusFrom`, and STATUS[7:4] the fields of `statusHigh`. -/
theorem statusShowsItsFieldsAtRest : Obligations.StatusShowsItsFieldsAtRest := by
  intro s hp
  simp only [locOf_status, readLoc]
  refine ⟨(statusFrom_getLsbD s _ 0).trans (busy_of_none s hp), statusFrom_getLsbD s _ 1,
    statusFrom_getLsbD s _ 2, statusFrom_getLsbD s _ 3, ?state, ?versionValid, statusIdle_outValid s,
    statusFrom_reserved s _⟩
  case state => rw [statusIdle_state, stateField_toNat]
  case versionValid => rw [statusIdle_versionValid]; cases s.version <;> rfl

theorem exec_read_of_busy {off : Offset} (ha : aligned off = true) {s : State} (hb : s.busy = true) :
    exec (.read off) s = .next (readBusy s (locOf off)) := by
  simp only [exec, execRead, ha, hb, Bool.not_true, Bool.false_eq_true, if_false, if_true]

/-- Settles O16: one clause for each kind of place, read off readBusy. -/
theorem readWhileBusyIsFreeButIdAndStatus : Obligations.ReadWhileBusyIsFreeButIdAndStatus := by
  intro s off ha hp
  have hb := busy_of_some s hp
  rw [exec_read_of_busy ha hb]
  refine ⟨fun h => ?id, fun h => ?status, fun h => ?zero, fun hid hst hre hout => ?free⟩
  case id => rw [h]; rfl
  case status =>
    rw [h]
    exact ⟨statusBusy s, rfl, (statusFrom_getLsbD s _ 0).trans hb, statusFrom_getLsbD s _ 1,
      statusFrom_getLsbD s _ 2, statusFrom_getLsbD s _ 3, statusFrom_reserved s _⟩
  case zero =>
    obtain h | ⟨k, h, past⟩ := h
    · rw [h]; rfl
    · rw [h, readBusy, if_neg (Nat.not_lt.2 past)]; rfl
  case free =>
    cases h : locOf off with
    | out k => rw [readBusy, if_pos (hout k h)]; rfl
    | id => exact absurd h hid
    | status => exact absurd h hst
    | reserved => exact absurd h hre
    | cmd | arg | err | result | mode | ecLevel | version | contentLen | stageLen | stageData | outBitlen
    | reqBits => rfl

/-- Settles O26: the fields of the reset state as it is written, and the four registers read from them. -/
theorem resetStateHoldsTheResetValues : Obligations.ResetStateHoldsTheResetValues := by
  refine ⟨rfl, rfl, rfl, rfl, rfl, rfl, rfl, rfl, rfl, rfl, rfl, rfl, rfl, rfl, ?_⟩
  simp only [locOf_status, locOf_reqBits, locOf_mode, locOf_ecLevel]
  exact ⟨rfl, rfl, rfl, rfl⟩

end Sys2Proof.Machine
end

section
/-! The memory map: what a step can change in the parameters, that every step has a next state, what a read
answers at each place of the map, and what an access that is no whole aligned word does. -/

namespace Sys2Proof.Machine

variable {s t : State}

/-! The parameters. -/

theorem exec_command_params {i : Instr} (hi : isCommand i = true) (he : exec i s = .next t) :
    t.params = s.params := by
  rw [exec_command i s hi] at he
  cases he
  obtain ⟨-, kept, -⟩ := commandBody_frame i s hi
  split
  · rfl
  · unfold gated
    split
    · rfl
    · exact kept

/-- Settles O30: a reset, the commit of a command and a cycle of the outside each keep the parameters. -/
theorem noStepChangesTheRoms : Obligations.NoStepChangesTheRoms := by
  intro s t hst
  obtain ⟨rest, -, rfl⟩ | ⟨op, -, he⟩ | ⟨-, e, -⟩ := step_cases hst
  · rfl
  · exact exec_command_params (isCommand_decodeOpcode op) he
  · rw [e.frame]

/-! Every step has a next state. -/

theorem exec_next (i : Instr) (s : State) : ∃ t, exec i s = .next t := by
  cases hi : isCommand i with
  | true => exact ⟨_, exec_command i s hi⟩
  | false =>
    obtain ⟨t, ht, -⟩ := exec_port i s hi
    exact ⟨t, ht⟩

theorem accept_next (r : Request) (s : State) : ∃ t, accept r s = .next t := by
  cases hd : decodeRequest r with
  | error e => exact ⟨_, accept_of_error hd s⟩
  | ok i =>
    cases hi : isCommand i with
    | true => exact ⟨_, accept_of_command hd hi s⟩
    | false => rw [accept_of_port hd hi]; exact exec_next i _

theorem hostTurn_next (s : State) : ∃ t, hostTurn s = .next t := by
  unfold hostTurn
  split
  · exact ⟨_, rfl⟩
  · exact ⟨_, rfl⟩
  · exact ⟨_, rfl⟩
  · exact accept_next _ _

theorem coreTurn_next (p : Pending) (s : State) : ∃ t, coreTurn p s = .next t := by
  unfold coreTurn
  split
  · exact exec_next _ s
  · exact hostTurn_next _

/-- Settles O31: a reset has a next state, and so has each turn a step can take. -/
theorem everyStepHasANextState : Obligations.EveryStepHasANextState := by
  intro s
  unfold step
  split
  · exact ⟨_, rfl⟩
  · split
    · exact coreTurn_next _ s
    · exact hostTurn_next s

/-! Reads at rest. -/

theorem aligned_iff (off : Offset) : aligned off = true ↔ off.toNat % 4 = 0 := by
  rw [aligned, beq_iff_eq, ← BitVec.toNat_inj, BitVec.extractLsb'_toNat]
  rfl

theorem exec_read_of_rest {off : Offset} (ha : aligned off = true) (hp : s.pending = none) :
    exec (.read off) s = .next (respond (readLoc s (locOf off)) s) := by
  simp only [exec, execRead, ha, busy_of_none s hp, Bool.not_true, Bool.false_eq_true, if_false]

/-- No place shows the response ports. -/
@[simp] theorem readLoc_respond (d : Word) (s : State) (l : Loc) : readLoc (respond d s) l = readLoc s l := by
  cases l <;> rfl

/-- Settles O17: a read answers, with or without a free value drawn, and at rest what it answers is no function
of the response. -/
theorem readsHaveNoSideEffect : Obligations.ReadsHaveNoSideEffect := by
  intro s off ha
  by_cases hp : s.pending = none
  · refine ⟨_, exec_read_of_rest ha hp, rfl, fun _ => ?_⟩
    rw [exec_read_of_rest ha ((respond_pending s _).trans hp), readLoc_respond]
    rfl
  · refine ⟨_, exec_read_of_busy ha (busy_of_some s hp), ?_, fun h => absurd h hp⟩
    obtain ⟨d, h | h⟩ := readBusy_cases s (locOf off) <;> rw [h] <;> rfl

/-! The output window and the reserved offsets. -/

/-- Stream bit 32k + j is bit 31 - j of window word k (R64). -/
theorem outWord_getLsbD {k j : Nat} (hk : k < s.params.outWords) (hj : j < 32) :
    (outWord s k).getLsbD (31 - j) = outBit s (32 * k + j) := by
  have spelled := testBit_bitsToNat ((List.range 32).map fun j => outBit s (32 * k + j)) j (by simpa using hj)
  simp only [List.length_map, List.length_range, List.getElem_map, List.getElem_range] at spelled
  rw [outWord, if_pos hk, BitVec.getLsbD_ofNat, spelled, decide_eq_true (by omega), Bool.true_and]

theorem outBit_of_lt {i : Nat} (h : i < s.out.length) : outBit s i = s.out[i] :=
  (List.getElem_eq_getD false).symm

theorem outBit_of_ge {i : Nat} (h : s.out.length ≤ i) : outBit s i = false :=
  List.getD_eq_default _ _ h

/-- Settles O19: the offset names window word k, and its bit 31 - j is stream bit 32k + j. -/
theorem outputWindowIsPackedMsbFirst : Obligations.OutputWindowIsPackedMsbFirst := by
  intro s off k j hp hoff hk hj
  have ha : aligned off = true := (aligned_iff off).2 (by omega)
  have hloc : locOf off = .out k := by
    rw [locOf_out off (by omega)]
    congr 1
    omega
  refine ⟨outWord s k, ?read, fun h => ?within, fun h => ?past⟩
  case read => rw [exec_read_of_rest ha hp, hloc]; rfl
  case within => rw [outWord_getLsbD hk hj, outBit_of_lt h]
  case past => rw [outWord_getLsbD hk hj, outBit_of_ge h]

/-- The places of R61: a reserved offset, or a window word at or past OUT_WORDS. -/
def ReadsZero (P : Params) (l : Loc) : Prop := l = .reserved ∨ ∃ k, l = .out k ∧ P.outWords ≤ k

theorem readsZero_locOf {P : Params} {off : Offset}
    (h : (0x038 ≤ off.toNat ∧ off.toNat ≤ 0xFFC) ∨ 0x1000 + 4 * P.outWords ≤ off.toNat) :
    ReadsZero P (locOf off) := by
  obtain ⟨above, below⟩ | past := h
  · exact .inl (locOf_reserved off above below)
  · exact .inr ⟨_, locOf_out off (by omega), by omega⟩

theorem ReadsZero.not_writable {P : Params} {l : Loc} (h : ReadsZero P l) : writable l = false := by
  obtain rfl | ⟨k, rfl, -⟩ := h <;> rfl

theorem ReadsZero.readLoc_eq {l : Loc} (h : ReadsZero s.params l) : readLoc s l = 0 := by
  obtain rfl | ⟨k, rfl, past⟩ := h
  · rfl
  · exact if_neg (Nat.not_lt.2 past)

/-- Settles O18: such an offset reads 0 at rest, and while BUSY by the statement on reads while BUSY; a write to
it is an ignored write. -/
theorem reservedOffsetsReadZeroIgnoreWrites : Obligations.ReservedOffsetsReadZeroIgnoreWrites := by
  intro s off w ha h
  have zero : ReadsZero s.params (locOf off) := readsZero_locOf h
  refine ⟨?read, decode_ignored_write off w ha zero.not_writable, rfl⟩
  by_cases hp : s.pending = none
  · rw [exec_read_of_rest ha hp, zero.readLoc_eq]
    rfl
  · obtain ⟨-, -, whileBusy, -⟩ := readWhileBusyIsFreeButIdAndStatus s off ha hp
    exact whileBusy zero

/-! Accesses that are no whole aligned word. -/

theorem decodeRequest_error {r : Request} (h : r.size ≠ 2#2 ∨ r.addr.extractLsb' 0 2 ≠ 0#2) :
    ∃ e, decodeRequest r = .error e := by
  unfold decodeRequest
  by_cases hs : r.size = 2#2
  · have misaligned : aligned r.addr = false := beq_false_of_ne (h.resolve_left (not_not_intro hs))
    exact ⟨.misaligned, by rw [if_neg (not_not_intro hs), misaligned]; rfl⟩
  · exact ⟨.wrongSize, if_pos hs⟩

/-- Settles O20: such an access decodes to no instruction, so the cycle that takes it is a bus error. -/
theorem busErrorAccessHasNoEffect : Obligations.BusErrorAccessHasNoEffect := by
  intro s r rest hh bad
  have noReset := not_resetsNext_of_access hh
  obtain ⟨e, hd⟩ := decodeRequest_error bad
  refine ⟨fun hp => ?rest, fun op arg k hp => ?busy⟩
  case rest =>
    rw [step_of_rest noReset hp, hostTurn_access hh, accept_of_error hd]
    rfl
  case busy =>
    rw [step_of_busy noReset hp, hostTurn_access (s := { s with pending := some ⟨op, arg, k⟩ }) hh,
      accept_of_error hd]
    rfl

/-- Settles O37: each access by the decoder's law for its kind. -/
theorem specAccessesDecodeAsWritten : Obligations.SpecAccessesDecodeAsWritten :=
  ⟨decode_cmd_write _, decode_cmd_write _, decode_stage_write _, decode_arg_write _,
    decode_ignored_write _ _ (by decide) (by decide), decode_read _ _ (by decide), rfl⟩

end Sys2Proof.Machine
end

section
/-! The default parameters: their two ROMs obey R72 and R73. The entries are checked level by level and mode by
mode, over the 40 versions. -/

namespace Sys2Proof.Machine

/-- R72(a) for two rows that follow each other. -/
theorem default_cap_lt_succ (k : Fin 39) (e : EcLevel) (m : Mode) :
    Params.default.cap k.castSucc e m < Params.default.cap k.succ e m := by
  revert k
  cases e <;> cases m <;> decide

theorem default_lawful : Params.default.Lawful where
  stageDepth_ge := by decide
  stageDepth_le := by decide
  outWords_le := le_rfl
  cap_lt v e m := by revert v; cases e <;> cases m <;> decide
  dcw_lt v e := by revert v; cases e <;> decide
  cap_version v w h e m := by
    have notLast : v.val < 39 := by omega
    have next : w = Fin.succ ⟨v.val, notLast⟩ := Fin.ext h.symm
    rw [next]
    exact default_cap_lt_succ ⟨v.val, notLast⟩ e m
  cap_level v m := by revert v; cases m <;> decide
  cci_fits v e m := by revert v; cases e <;> cases m <;> decide
  data_fits v e m := by revert v; cases e <;> cases m <;> decide
  out_fits v e := by revert v; cases e <;> decide

/-- Settles O53: the laws, and R72(d) at each entry of CAP_ROM. -/
theorem defaultParametersAreLawful : Obligations.DefaultParametersAreLawful := by
  refine ⟨default_lawful, fun v e => ?_⟩
  revert v
  cases e <;> decide

end Sys2Proof.Machine
end

section
/-! The encoding (30_encoding.md): a well-formed instruction is what its request, its word and its bytes decode to,
a decoded one is well-formed, the rows of the opcode map, and a placed word as the next instruction to run. -/

namespace Sys2Proof.Machine

/-! Requests, request words and bytes hold one and the same instruction. -/

/-- The 17 laws of the per-instruction layer as one: each constructor by its own. -/
theorem decode_encodeRequest {i : Instr} (h : i.wellFormed = true) : decodeRequest (encodeRequest i) = .ok i := by
  cases i with
  | nop => exact Laws.DecodeEncode.nop h
  | setContent => exact Laws.DecodeEncode.setContent h
  | setEcLevel => exact Laws.DecodeEncode.setEcLevel h
  | getVersion => exact Laws.DecodeEncode.getVersion h
  | getFinalData => exact Laws.DecodeEncode.getFinalData h
  | validateLength => exact Laws.DecodeEncode.validateLength h
  | stageClear => exact Laws.DecodeEncode.stageClear h
  | softReset => exact Laws.DecodeEncode.softReset h
  | illegal08 low => exact Laws.DecodeEncode.illegal08 low h
  | illegal10 low => exact Laws.DecodeEncode.illegal10 low h
  | illegal20 low => exact Laws.DecodeEncode.illegal20 low h
  | illegal40 low => exact Laws.DecodeEncode.illegal40 low h
  | illegal80 low => exact Laws.DecodeEncode.illegal80 low h
  | stageData b => exact Laws.DecodeEncode.stageData b h
  | argWrite data => exact Laws.DecodeEncode.argWrite data h
  | roWrite off data => exact Laws.DecodeEncode.roWrite off data h
  | read off => exact Laws.DecodeEncode.read off h

theorem decodeWord_encode {i : Instr} (h : i.wellFormed = true) : decodeWord (encode i) = .ok i := by
  rw [decodeWord, encode, ofWord_toWord, decode_encodeRequest h]

/-- The six bytes of a request word are read as that word; the bytes after them are left. -/
theorem decodeBytes_bytesOfWord {w : BitVec 48} {i : Instr} (h : decodeWord w = .ok i) (rest : List Byte) :
    decodeBytes (bytesOfWord w ++ rest) = .ok (i, rest) := by
  simp only [bytesOfWord, List.cons_append, List.nil_append, decodeBytes, wordOfBytes_extract, h]

/-- Settles O34: the bytes give back the request word, the word the request, and the request the instruction. -/
theorem decodeOfEncodeIsIdentity : Obligations.DecodeOfEncodeIsIdentity :=
  fun _ rest h => decodeBytes_bytesOfWord (decodeWord_encode h) rest

/-! What a request can decode to. -/

theorem wellFormed_of_isCommand {i : Instr} (h : isCommand i = true) : i.wellFormed = true := by
  cases i with
  | roWrite | read => cases h
  | _ => rfl

/-- All that a request can decode to: a read, a command, an ARG_WRITE, a STAGE_DATA, or a write that is ignored. -/
theorem decodeRequest_cases {r : Request} {i : Instr} (h : decodeRequest r = .ok i) :
    aligned r.addr = true ∧ (i = .read r.addr ∨ i = decodeOpcode (opcodeOf r.wdata) ∨ i = .argWrite r.wdata ∨
      i = .stageData (byteOf r.wdata) ∨ (i = .roWrite r.addr r.wdata ∧ writable (locOf r.addr) = false)) := by
  unfold decodeRequest at h
  split at h
  · cases h
  split at h
  · cases h
  rename_i ha
  refine ⟨by simpa using ha, ?_⟩
  split at h
  case isFalse => cases h; exact .inl rfl
  case isTrue =>
    cases hl : locOf r.addr with
    | cmd => rw [hl] at h; cases h; exact .inr (.inl rfl)
    | arg => rw [hl] at h; cases h; exact .inr (.inr (.inl rfl))
    | stageData => rw [hl] at h; cases h; exact .inr (.inr (.inr (.inl rfl)))
    | _ => rw [hl] at h; cases h; exact .inr (.inr (.inr (.inr ⟨rfl, rfl⟩)))

theorem wellFormed_of_decodeRequest {r : Request} {i : Instr} (h : decodeRequest r = .ok i) :
    i.wellFormed = true := by
  obtain ⟨ha, rfl | rfl | rfl | rfl | ⟨rfl, hw⟩⟩ := decodeRequest_cases h
  · exact ha
  · exact wellFormed_of_isCommand (isCommand_decodeOpcode _)
  · rfl
  · rfl
  · simp only [Instr.wellFormed, ha, hw, Bool.not_false, Bool.and_self]

/-- Settles O35: a decoded instruction is well-formed, so its encoding decodes to it. -/
theorem decodedInstructionsAreWellFormed : Obligations.DecodedInstructionsAreWellFormed :=
  fun _ _ h => ⟨wellFormed_of_decodeRequest h, decode_encodeRequest (wellFormed_of_decodeRequest h)⟩

/-! The rows of the opcode map. The opcode of a command is the one its own request carries, so an opcode names a
command exactly when the two agree. -/

theorem encodeRequest_decodeOpcode (op : BitVec 8) : encodeRequest (decodeOpcode op) = cmdRequest op := by
  revert op; decide

theorem opcodeOf_cmdRequest (op : BitVec 8) : opcodeOf (cmdRequest op).wdata = op := opcodeOf_setWidth op

theorem cmdRequest_inj {a b : BitVec 8} (h : cmdRequest a = cmdRequest b) : a = b := by
  rw [← opcodeOf_cmdRequest a, h, opcodeOf_cmdRequest]

theorem eq_of_decodeOpcode {op code : BitVec 8} {i : Instr} (he : encodeRequest i = cmdRequest code)
    (hd : decodeOpcode op = i) : op = code := by
  rw [← hd, encodeRequest_decodeOpcode] at he
  exact cmdRequest_inj he

/-- A mask of the low byte tests the opcode only: CMD[31:8] never matter (R101). -/
theorem and_mask_eq_iff (w : Word) (mask value : BitVec 8) :
    w &&& mask.setWidth 32 = value.setWidth 32 ↔ opcodeOf w &&& mask = value := by
  have masked : w &&& mask.setWidth 32 = (opcodeOf w &&& mask).setWidth 32 := by
    apply BitVec.eq_of_getLsbD_eq
    intro k hk
    by_cases low : k < 8
    · simp [opcodeOf, hk, low]
    · simp [opcodeOf, hk, low, BitVec.getLsbD_of_ge mask k (by omega)]
  rw [masked]
  constructor
  · intro h
    rw [← opcodeOf_setWidth (opcodeOf w &&& mask), h, opcodeOf_setWidth]
  · rintro rfl; rfl

/-- A row whose opcode is fixed: the whole field is compared (R102). -/
theorem fixedRow_iff {i : Instr} {code : BitVec 8} (hd : decodeOpcode code = i) (w : Word) :
    w &&& (0xFF#8).setWidth 32 = code.setWidth 32 ↔ decodeOpcode (opcodeOf w) = i := by
  rw [and_mask_eq_iff, show opcodeOf w &&& 0xFF#8 = opcodeOf w from BitVec.and_allOnes]
  constructor
  · rintro rfl; exact hd
  · exact eq_of_decodeOpcode (by rw [← hd, encodeRequest_decodeOpcode])

/-- A row with operand bits below its mask (R102, R106): `code low` is the opcode the row writes for them. -/
theorem maskedRow_iff {n : Nat} {row : BitVec n → Instr} {code : BitVec n → BitVec 8} {mask value : BitVec 8}
    (he : ∀ low, encodeRequest (row low) = cmdRequest (code low)) (hv : ∀ low, code low &&& mask = value)
    (hd : ∀ op, op &&& mask = value → decodeOpcode op = row (op.extractLsb' 0 n)) (w : Word) :
    w &&& mask.setWidth 32 = value.setWidth 32 ↔ ∃ low, decodeOpcode (opcodeOf w) = row low := by
  rw [and_mask_eq_iff]
  constructor
  · exact fun h => ⟨_, hd _ h⟩
  · rintro ⟨low, h⟩
    rw [eq_of_decodeOpcode (he low) h, hv]

/-- Settles O36: a CMD write is the command its opcode names, and each row is one of the two kinds. -/
theorem commandWordsMatchTheOpcodeMap : Obligations.CommandWordsMatchTheOpcodeMap := by
  intro w
  exact ⟨_, decode_cmd_write w,
    fixedRow_iff (code := 0x00#8) rfl w, fixedRow_iff (code := 0x01#8) rfl w,
    fixedRow_iff (code := 0x02#8) rfl w, fixedRow_iff (code := 0x03#8) rfl w,
    fixedRow_iff (code := 0x04#8) rfl w, fixedRow_iff (code := 0x05#8) rfl w,
    fixedRow_iff (code := 0x06#8) rfl w, fixedRow_iff (code := 0x07#8) rfl w,
    maskedRow_iff (mask := 0xF8#8) (value := 0x08#8) (fun _ => rfl) (by decide) (by decide) w,
    maskedRow_iff (mask := 0xF0#8) (value := 0x10#8) (fun _ => rfl) (by decide) (by decide) w,
    maskedRow_iff (mask := 0xE0#8) (value := 0x20#8) (fun _ => rfl) (by decide) (by decide) w,
    maskedRow_iff (mask := 0xC0#8) (value := 0x40#8) (fun _ => rfl) (by decide) (by decide) w,
    maskedRow_iff (mask := 0x80#8) (value := 0x80#8) (fun _ => rfl) (by decide) (by decide) w⟩

/-! A word placed as the next to run (log 7, log 11). -/

variable {s : State}

theorem tableRequest_command (w : Word) : tableRequest 32 w.toNat = writeWord 0x004#13 w := by
  rw [tableRequest, if_pos le_rfl, BitVec.ofNat_toNat, BitVec.setWidth_eq]; rfl

theorem tableRequest_encode (i : Instr) : tableRequest 48 (encode i).toNat = encodeRequest i := by
  rw [tableRequest, if_neg (by decide), BitVec.ofNat_toNat, BitVec.setWidth_eq, encode, ofWord_toWord]

/-- A command's request is a CMD write of an opcode that names it. -/
theorem exists_opcode {i : Instr} (hi : isCommand i = true) :
    ∃ op, decodeOpcode op = i ∧ encodeRequest i = cmdRequest op := by
  have he : ∃ op, encodeRequest i = cmdRequest op := by
    cases i with
    | stageData | argWrite | roWrite | read => cases hi
    | _ => exact ⟨_, rfl⟩
  obtain ⟨op, he⟩ := he
  have hd := decode_encodeRequest (wellFormed_of_isCommand hi)
  rw [he, decode_cmdRequest] at hd
  exact ⟨op, Except.ok.inj hd, he⟩

theorem head_holdReset_ne_rst (host : List HostEvent) : (holdReset host).head? ≠ some .rst := by
  unfold holdReset
  split
  · nofun
  · rename_i notReset
    intro h
    obtain ⟨rest, e⟩ := List.head?_eq_some_iff.1 h
    exact notReset rest e

/-- A placed command is a pending one with no cycle left, so the next step is its commit. -/
theorem step_withRequest_of_command {r : Request} {i : Instr} (hd : decodeRequest r = .ok i)
    (hi : isCommand i = true) :
    step (s.withRequest r) = exec (decodeOpcode (opcodeOf r.wdata))
      { s with pending := some ⟨opcodeOf r.wdata, s.arg, 0⟩, host := holdReset s.host, polled := false } := by
  rw [State.withRequest, hd]
  simp only [hi, if_true]
  exact step_commit ⟨head_holdReset_ne_rst s.host, s.arg, rfl⟩

/-- A placed port operation is the access at the head of the queue, so the next step runs it, at rest or BUSY. -/
theorem step_withRequest_of_port {r : Request} {i : Instr} (hd : decodeRequest r = .ok i)
    (hi : isCommand i = false) :
    step (s.withRequest r) = exec i
      { s with polled := s.polled || (s.pending.isNone && decide (i = .read 0x00C#13)) } := by
  rw [State.withRequest, hd]
  simp only [hi, Bool.false_eq_true, if_false]
  obtain ⟨atRest, whileBusy⟩ := stepRunsTheDecodedInstruction.1
    { s with pending := s.pending.map fun p => { p with remaining := p.remaining + 1 }
             host := .access r :: s.host } r i s.host rfl hd hi
  cases hp : s.pending with
  | none =>
    simp only [hp, Option.map_none] at atRest
    simpa [hp] using atRest
  | some p =>
    simp only [hp] at whileBusy
    simpa [hp] using whileBusy p.opcode p.arg p.remaining rfl

/-- Settles O23: the table word is the request of its instruction, and what is placed for that request runs next. -/
theorem fetchWordIsTheNextInstruction : Obligations.FetchWordIsTheNextInstruction := by
  refine ⟨fun s w => ?commandWord, fun s i hw hi => ?port, fun s i hi => ?command⟩
  case commandWord =>
    rw [State.withFetchWord, tableRequest_command]
    exact step_withRequest_of_command (decode_cmd_write w) (isCommand_decodeOpcode _)
  case port =>
    rw [State.withFetchWord, tableRequest_encode]
    exact step_withRequest_of_port (decode_encodeRequest hw) hi
  case command =>
    obtain ⟨op, hd, he⟩ := exists_opcode hi
    refine ⟨op, hd, ?_⟩
    rw [State.withFetchWord, tableRequest_encode, he,
      step_withRequest_of_command (decode_cmdRequest op) (isCommand_decodeOpcode op), opcodeOf_cmdRequest, hd]

end Sys2Proof.Machine
end

section
/-! The formats: the fields of the final string (R107), and the tables of R108 to R110. -/

namespace Sys2Proof.Machine

/-- MI(m) fits the 4 bits of its field (R103). -/
theorem bitsToNat_modeIndicator (m : Mode) :
    bitsToNat (binW 4 (modeCode m).toNat) = (modeCode m).toNat := bitsToNat_binW _ _ (modeCode m).isLt

/-- Settles O43: the fields are cut off one by one; their widths are the lengths of bin_w and of the data. -/
theorem finalStringIsItsFieldsInOrder : Obligations.FinalStringIsItsFieldsInOrder := by
  intro P c m e v bits h
  obtain ⟨fits, d, hd, rfl⟩ := final_eq_some h
  have afterIndicator (rest : Bits) : (binW 4 (modeCode m).toNat ++ rest).drop 4 = rest :=
    List.drop_left' (binW_length _ _)
  have afterCount (rest : Bits) : (binW (cciWidth v m) c.length ++ rest).drop (cciWidth v m) = rest :=
    List.drop_left' (binW_length _ _)
  simp only [List.append_assoc, ← List.drop_drop, afterIndicator, afterCount]
  refine ⟨d, hd, ?indicator, ?count, List.take_left, fun b hb => ?terminator⟩
  case indicator =>
    rw [List.take_left' (binW_length _ _), bitsToNat_modeIndicator]
    cases m <;> rfl
  case count => rw [List.take_left' (binW_length _ _), bitsToNat_binW _ _ fits]
  case terminator =>
    rw [List.drop_left] at hb
    exact List.eq_of_mem_replicate hb

/-! The tables. -/

theorem alnumValue_alnumChar {x : Nat} (h : x < 45) : alnumValue (alnumChar x) = some x := by
  revert x; decide

theorem alnumValue_eq_some_iff (b : Byte) (x : Nat) : alnumValue b = some x ↔ x < 45 ∧ alnumChar x = b := by
  constructor
  · exact fun h => ⟨Nat.lt_succ_of_le (alnumValue_le h), alnumChar_alnumValue h⟩
  · rintro ⟨h, rfl⟩; exact alnumValue_alnumChar h

theorem digitValue_eq_some_iff (b : Byte) (x : Nat) :
    digitValue b = some x ↔ 0x30 ≤ b.toNat ∧ b.toNat ≤ 0x39 ∧ x = b.toNat - 0x30 := by
  constructor
  · intro h
    have := digitValue_spec h
    omega
  · rintro ⟨low, high, rfl⟩; exact if_pos ⟨low, high⟩

theorem cciWidth_of_le_9 {v : Version} (h : versionNumber v ≤ 9) :
    cciWidth v .numeric = 10 ∧ cciWidth v .alphanumeric = 9 ∧ cciWidth v .byte = 8 := by
  simp only [cciWidth, if_pos h, and_self]

theorem cciWidth_of_10_to_26 {v : Version} (h : 10 ≤ versionNumber v) (h' : versionNumber v ≤ 26) :
    cciWidth v .numeric = 12 ∧ cciWidth v .alphanumeric = 11 ∧ cciWidth v .byte = 16 := by
  simp only [cciWidth, if_neg (show ¬ versionNumber v ≤ 9 by omega), if_pos h', and_self]

theorem cciWidth_of_ge_27 {v : Version} (h : 27 ≤ versionNumber v) :
    cciWidth v .numeric = 14 ∧ cciWidth v .alphanumeric = 13 ∧ cciWidth v .byte = 16 := by
  simp only [cciWidth, if_neg (show ¬ versionNumber v ≤ 9 by omega),
    if_neg (show ¬ versionNumber v ≤ 26 by omega), and_self]

/-- Settles O47: `alnumChar` reads the table, and alnumValue is its inverse; the other tables by their laws. -/
theorem characterAndCountTables : Obligations.CharacterAndCountTables := by
  refine ⟨fun b x => ?_, digitValue_eq_some_iff, fun _ _ => alnumValue_of_digit,
    fun v => ⟨cciWidth_of_le_9, cciWidth_of_10_to_26, cciWidth_of_ge_27⟩⟩
  rw [alnumValue_eq_some_iff, List.getElem?_eq_some_iff, ← exists_prop]
  exact exists_congr fun inTable => by rw [alnumChar, List.getD_eq_getElem _ _ inTable]

end Sys2Proof.Machine
end

section
/-! The input classifier (40_classifier.md): CLASSIFY, SET_CONTENT, VALIDATE_LENGTH and the staging port. -/

namespace Sys2Proof.Machine

variable {s : State}

/-! CLASSIFY. Digits only is the test of R140 as written; Byte is the failure of the second test, since the alphabet
holds the digits; Alphanumeric is what is neither. -/

theorem alnumValue_ne_none_of_digit {b : Byte} (h : 0x30 ≤ b.toNat ∧ b.toNat ≤ 0x39) : alnumValue b ≠ none := by
  obtain ⟨x, hx⟩ := Option.isSome_iff_exists.1 ((digitValue_isSome b).2 h)
  rw [alnumValue_of_digit hx]
  nofun

/-- The table of R108 ends below the lower-case letters. -/
theorem alnumValue_eq_none_of_ge {b : Byte} (h : 0x61 ≤ b.toNat) : alnumValue b = none := by
  revert b; decide

theorem classify_eq_numeric_iff (c : List Byte) :
    classify c = .numeric ↔ ∀ b ∈ c, 0x30 ≤ b.toNat ∧ b.toNat ≤ 0x39 := by
  simp only [← digitValue_isSome, ← List.all_eq_true]
  unfold classify
  split
  case isTrue digits => exact iff_of_true rfl digits
  case isFalse other => exact iff_of_false (by split <;> nofun) other

theorem classify_eq_byte_iff (c : List Byte) : classify c = .byte ↔ ∃ b ∈ c, alnumValue b = none := by
  by_cases digits : classify c = .numeric
  case pos =>
    refine iff_of_false (by rw [digits]; nofun) ?_
    rintro ⟨b, hb, noValue⟩
    exact alnumValue_ne_none_of_digit ((classify_eq_numeric_iff c).1 digits b hb) noValue
  case neg =>
    rw [classify, if_neg fun h => digits (if_pos h)]
    split
    case isTrue symbols =>
      refine iff_of_false nofun ?_
      rintro ⟨b, hb, noValue⟩
      exact Option.isSome_iff_ne_none.1 (List.all_eq_true.1 symbols b hb) noValue
    case isFalse other => exact iff_of_true rfl (by simpa using other)

theorem classify_eq_alphanumeric_iff (c : List Byte) :
    classify c = .alphanumeric ↔
      (∀ b ∈ c, alnumValue b ≠ none) ∧ ∃ b ∈ c, b.toNat < 0x30 ∨ 0x39 < b.toNat := by
  have neither : classify c = .alphanumeric ↔ classify c ≠ .byte ∧ classify c ≠ .numeric := by
    cases classify c <;> decide
  rw [neither, ne_eq, ne_eq, classify_eq_byte_iff, classify_eq_numeric_iff]
  push Not
  simp only [imp_iff_not_or, Nat.not_le]

/-- Settles O49: the three modes by their tests; a byte from 0x61 on is outside the alphabet. -/
theorem classifierPicksTheNarrowestMode : Obligations.ClassifierPicksTheNarrowestMode := by
  intro c _
  refine ⟨classify_eq_numeric_iff c, classify_eq_alphanumeric_iff c, classify_eq_byte_iff c, ?_⟩
  rintro ⟨b, hb, high⟩
  exact (classify_eq_byte_iff c).2 ⟨b, hb, alnumValue_eq_none_of_ge high⟩

/-! The commands past the FAULT gate. -/

theorem exec_command_of_no_fault {i : Instr} (hi : isCommand i = true) (hs : i ≠ .softReset)
    (hf : s.fault = false) : exec i s = .next (commandBody i s) := by
  rw [exec_command i s hi, if_neg hs, gated_of_no_fault _ s hf]

theorem setContentBody_of_overflow (overflow : s.stageOvf = true) :
    setContentBody s = fail .stageOverflow (clearStage s) := by
  rw [setContentBody, if_pos overflow]

theorem setContentBody_of_empty (noOverflow : s.stageOvf = false) (empty : s.stage = []) :
    setContentBody s = fail .invalidInput s := by
  rw [setContentBody, noOverflow, empty]; rfl

theorem setContentBody_of_staged (noOverflow : s.stageOvf = false) (staged : s.stage ≠ []) :
    setContentBody s = commitStage s := by
  rw [setContentBody, noOverflow, if_neg Bool.false_ne_true, if_neg (by simpa using staged)]

/-- Settles O2: the word by the decoder, and each outcome by the body of SET_CONTENT on its condition. -/
theorem setContentCommitsTheStage : Obligations.SetContentCommitsTheStage := by
  refine ⟨decode_cmd_write 0x00000001#32, fun s hf => ?_⟩
  rw [exec_command_of_no_fault (i := .setContent) rfl nofun hf, commandBody]
  refine ⟨fun overflow => ?overflow, fun noOverflow empty => ?empty, fun noOverflow staged => ?staged⟩
  case overflow => rw [setContentBody_of_overflow overflow]; rfl
  case empty => rw [setContentBody_of_empty noOverflow empty]; rfl
  case staged => rw [setContentBody_of_staged noOverflow staged]; rfl

theorem validateLengthBody_of_le (fits : s.content.length ≤ ceilMode s.mode) :
    validateLengthBody s = succeed 0 s := by
  rw [validateLengthBody, lenOk, if_pos (decide_eq_true fits)]

theorem validateLengthBody_of_gt (tooLong : ceilMode s.mode < s.content.length) :
    validateLengthBody s = fail .invalidLength s := by
  rw [validateLengthBody, lenOk, if_neg (by simpa using tooLong)]

/-- Settles O6: the ceilings as R74 gives them, and the two outcomes on either side of the stored mode's. -/
theorem validateLengthTestsModeCeiling : Obligations.ValidateLengthTestsModeCeiling := by
  refine ⟨decode_cmd_write 0x00000005#32, ⟨rfl, rfl, rfl⟩, fun s hf => ?_⟩
  rw [exec_command_of_no_fault (i := .validateLength) rfl nofun hf, commandBody]
  refine ⟨fun fits => ?fits, fun tooLong => ?tooLong⟩
  case fits => rw [validateLengthBody_of_le fits]; rfl
  case tooLong => rw [validateLengthBody_of_gt tooLong]; rfl

/-! The staging port. -/

theorem exec_stageData_of_busy (b : Byte) (hp : s.pending ≠ none) :
    exec (.stageData b) s = .next (dropWrite s) := by
  simp only [exec, execStageData, busy_of_some s hp, if_true]

theorem exec_stageData_of_room (b : Byte) (hp : s.pending = none)
    (room : s.stage.length < s.params.stageDepth) :
    exec (.stageData b) s = .next (respond 0 (appendStage b s)) := by
  simp only [exec, execStageData, busy_of_none s hp, Bool.false_eq_true, if_false, if_pos room]

theorem exec_stageData_of_full (b : Byte) (hp : s.pending = none)
    (full : s.params.stageDepth ≤ s.stage.length) :
    exec (.stageData b) s = .next (respond 0 { s with stageOvf := true }) := by
  simp only [exec, execStageData, busy_of_none s hp, Bool.false_eq_true, if_false, if_neg full.not_gt]

/-- Settles O10: the byte by the decoder, and the three cases of the port. -/
theorem stageDataAppendsOrDrops : Obligations.StageDataAppendsOrDrops :=
  ⟨decode_stage_write, fun b _ => ⟨exec_stageData_of_room b, exec_stageData_of_full b,
    fun hp => ⟨_, exec_stageData_of_busy b hp, rfl⟩⟩⟩

end Sys2Proof.Machine
end

section
/-! The version resolver (41_version_resolver.md): RESOLVE and its laws, SET_EC_LEVEL, GET_VERSION. -/

namespace Sys2Proof.Machine

variable {s : State} {P : Params} {n : Nat} {m : Mode} {e : EcLevel} {v w : Version}

/-! RESOLVE (R160): the laws of R165 and R166 follow from its two equivalences. -/

theorem resolve_of_pos (pos : 0 < n) :
    resolve P n m e = (List.finRange 40).find? fun v => decide (n ≤ P.cap v e m) :=
  if_neg pos.ne'

theorem resolve_eq_some_iff :
    resolve P n m e = some v ↔ n ≠ 0 ∧ n ≤ P.cap v e m ∧ ∀ w : Version, w < v → P.cap w e m < n := by
  rcases n.eq_zero_or_pos with rfl | pos
  case inl => exact iff_of_false nofun fun h => h.1 rfl
  case inr =>
    rw [resolve_of_pos pos, ← List.ofFn_id]
    refine (List.find?_ofFn_eq_some_of_injective (i := v) Function.injective_id).trans ?_
    simp [pos.ne']

theorem resolve_eq_none_iff : resolve P n m e = none ↔ n = 0 ∨ ∀ v, P.cap v e m < n := by
  rcases n.eq_zero_or_pos with rfl | pos
  case inl => exact iff_of_true (resolve_zero P m e) (.inl rfl)
  case inr =>
    rw [resolve_of_pos pos, List.find?_eq_none]
    simp [pos.ne']

/-- Settles O50: the least version by the search's order, and none where the search finds nothing. -/
theorem resolverGivesTheLeastVersion : Obligations.ResolverGivesTheLeastVersion :=
  fun _ _ _ _ => ⟨fun _ => resolve_eq_some_iff, resolve_eq_none_iff⟩

theorem le_cap_of_resolve (h : resolve P n m e = some v) : n ≤ P.cap v e m := (resolve_eq_some_iff.1 h).2.1

/-- No version below the one RESOLVE gives holds the count (R165(iv)). -/
theorem cap_lt_of_resolve (h : resolve P n m e = some v) (below : w < v) : P.cap w e m < n :=
  (resolve_eq_some_iff.1 h).2.2 w below

theorem resolve_le_of_le_cap (h : resolve P n m e = some v) (fits : n ≤ P.cap w e m) : v ≤ w :=
  not_lt.1 fun below => (cap_lt_of_resolve h below).not_ge fits

theorem cap_lt_of_resolve_eq_none (pos : 0 < n) (h : resolve P n m e = none) (v : Version) : P.cap v e m < n :=
  (resolve_eq_none_iff.1 h).resolve_left pos.ne' v

theorem exists_resolve_of_le_cap (pos : 0 < n) (fits : n ≤ P.cap w e m) : ∃ v, resolve P n m e = some v :=
  Option.ne_none_iff_exists'.1 fun unresolved => (cap_lt_of_resolve_eq_none pos unresolved w).not_ge fits

/-- R72(b) from one level to any stricter one. -/
theorem cap_lt_of_stricter {e' : EcLevel}
    (hl : P.cap v .m m < P.cap v .l m ∧ P.cap v .q m < P.cap v .m m ∧ P.cap v .h m < P.cap v .q m)
    (stricter : (ecLevelCode e).toNat < (ecLevelCode e').toNat) : P.cap v e' m < P.cap v e m := by
  obtain ⟨ml, qm, hq⟩ := hl
  cases e <;> cases e' <;> simp [ecLevelCode] at stricter <;> omega

/-- Settles O51: a version holds less at a stricter level, and a smaller count needs less. R72(a) is not used. -/
theorem resolverIsMonotone : Obligations.ResolverIsMonotone := by
  intro P m _ byLevel
  refine ⟨fun e e' n v w _ stricter hv hw => ?level, fun e e' n pos stricter unresolved => ?unresolved,
    fun e n k w pos smaller hk => ?count, fun e n v hv => ?least⟩
  case level =>
    have less : P.cap w e' m < P.cap w e m := cap_lt_of_stricter (byLevel w) stricter
    exact resolve_le_of_le_cap hv ((le_cap_of_resolve hw).trans less.le)
  case unresolved =>
    refine resolve_eq_none_iff.2 (.inr fun v => ?_)
    have less : P.cap v e' m < P.cap v e m := cap_lt_of_stricter (byLevel v) stricter
    exact less.trans (cap_lt_of_resolve_eq_none pos unresolved v)
  case count =>
    have fits : n ≤ P.cap w e m := smaller.trans (le_cap_of_resolve hk)
    obtain ⟨v, hv⟩ := exists_resolve_of_le_cap pos fits
    exact ⟨v, hv, resolve_le_of_le_cap hv fits⟩
  case least =>
    exact ⟨le_cap_of_resolve hv, fun u below => cap_lt_of_resolve hv (Fin.lt_def.2 (by omega))⟩

/-- Under R72(a) version 40 holds the most (R166). -/
theorem resolve_ne_none_iff_le_last (increasing : StrictMono fun v => P.cap v e m) (pos : 0 < n) :
    resolve P n m e ≠ none ↔ n ≤ P.cap (Fin.last 39) e m := by
  constructor
  · intro h
    obtain ⟨v, hv⟩ := Option.ne_none_iff_exists'.1 h
    exact (le_cap_of_resolve hv).trans (increasing.monotone (Fin.le_last v))
  · intro fits
    exact Option.ne_none_iff_exists'.2 (exists_resolve_of_le_cap pos fits)

theorem default_cap_strictMono (e : EcLevel) (m : Mode) : StrictMono fun v => Params.default.cap v e m :=
  Fin.strictMono_iff_lt_succ.2 fun k => default_cap_lt_succ k e m

/-- Settles O52: the table is the row of version 40. -/
theorem defaultRomLargestResolvableCounts : Obligations.DefaultRomLargestResolvableCounts := by
  intro n m e pos
  rw [resolve_ne_none_iff_le_last (default_cap_strictMono e m) pos]
  cases m <;> cases e <;> rfl

/-! The commands past the FAULT gate. -/

theorem setEcLevelBody_of_gt (tooLong : ceilLevel (ecOperand s) < s.content.length) :
    setEcLevelBody s = fail .invalidLength s :=
  if_pos tooLong

theorem setEcLevelBody_of_le (fits : s.content.length ≤ ceilLevel (ecOperand s)) :
    setEcLevelBody s =
      let version := resolve s.params s.content.length s.mode (ecOperand s)
      succeed (BitVec.ofNat 32 (versionValue version))
        (clearOutput { s with ecLevel := ecOperand s, version := version }) :=
  if_neg fits.not_gt

theorem latchedArg_of_pending {p : Pending} (hp : s.pending = some p) : latchedArg s = p.arg := by
  rw [latchedArg, hp]

/-- Settles O3: the tables by their rows, and the two outcomes on either side of the operand's ceiling. -/
theorem setEcLevelCommitsOrRejects : Obligations.SetEcLevelCommitsOrRejects := by
  refine ⟨decode_cmd_write 0x00000002#32, ⟨rfl, rfl, rfl, rfl⟩, ⟨rfl, rfl, rfl, rfl⟩,
    fun _ _ => latchedArg_of_pending, ?_⟩
  rintro s _ hf rfl
  rw [exec_command_of_no_fault (i := .setEcLevel) rfl nofun hf, commandBody]
  refine ⟨fun tooLong => ?tooLong, fun fits => ?fits⟩
  case tooLong => rw [setEcLevelBody_of_gt tooLong]; rfl
  case fits => rw [setEcLevelBody_of_le fits]; rfl

theorem exec_getVersion_of_no_fault (hf : s.fault = false) :
    exec .getVersion s = .next (succeed (BitVec.ofNat 32 (versionValue s.version)) s) :=
  exec_command_of_no_fault (i := .getVersion) rfl nofun hf

/-- Settles O4: RESULT is a function of VERSION, which the command keeps. -/
theorem getVersionReturnsVersion : Obligations.GetVersionReturnsVersion := by
  refine ⟨decode_cmd_write 0x00000003#32, ⟨rfl, fun _ => rfl⟩, fun s => exec_getVersion_of_no_fault, ?_⟩
  intro s t u hf ht hu
  rw [exec_getVersion_of_no_fault hf] at ht
  cases ht
  rw [exec_getVersion_of_no_fault (s := succeed _ s) hf] at hu
  cases hu
  rfl

end Sys2Proof.Machine
end

section
/-! The bit packers (42_bit_packers.md): the groups each packer emits and when it faults (R181, R182, R184), the
packed length (R185), that the packed data determines the content, and that lawful parameters rule out
Fault(INTERNAL) (R183, R202). -/

namespace Sys2Proof.Machine

/-! The groups. Each equivalence says what a packer answers on one group and the rest. -/

theorem numGroup_three (x y z : Nat) : numGroup [x, y, z] = binW 10 (100 * x + 10 * y + z) := by
  have value : 10 * (10 * (10 * 0 + x) + y) + z = 100 * x + 10 * y + z := by ring
  exact congrArg (binW 10) value

theorem numGroup_two (x y : Nat) : numGroup [x, y] = binW 7 (10 * x + y) := by simp [numGroup]

theorem numGroup_one (x : Nat) : numGroup [x] = binW 4 x := by simp [numGroup]

theorem packNum_three_eq_some_iff {a b c : Byte} {rest : List Byte} {gs : List Bits} :
    packNum (a :: b :: c :: rest) = some gs ↔ ∃ x y z gs', digitValue a = some x ∧ digitValue b = some y ∧
      digitValue c = some z ∧ packNum rest = some gs' ∧ binW 10 (100 * x + 10 * y + z) :: gs' = gs := by
  simp [packNum, numGroup_three, Option.bind_eq_some_iff]

theorem packNum_two_eq_some_iff {a b : Byte} {gs : List Bits} :
    packNum [a, b] = some gs ↔ ∃ x y, digitValue a = some x ∧ digitValue b = some y ∧
      [binW 7 (10 * x + y)] = gs := by
  simp [packNum, numGroup_two, Option.bind_eq_some_iff]

theorem packNum_one_eq_some_iff {a : Byte} {gs : List Bits} :
    packNum [a] = some gs ↔ ∃ x, digitValue a = some x ∧ [binW 4 x] = gs := by
  simp [packNum, numGroup_one, Option.bind_eq_some_iff]

theorem packAlnum_pair_eq_some_iff {a b : Byte} {rest : List Byte} {gs : List Bits} :
    packAlnum (a :: b :: rest) = some gs ↔ ∃ x y gs', alnumValue a = some x ∧ alnumValue b = some y ∧
      packAlnum rest = some gs' ∧ binW 11 (x * 45 + y) :: gs' = gs := by
  simp [packAlnum, Option.bind_eq_some_iff]

theorem packAlnum_one_eq_some_iff {a : Byte} {gs : List Bits} :
    packAlnum [a] = some gs ↔ ∃ x, alnumValue a = some x ∧ [binW 6 x] = gs := by
  simp [packAlnum, Option.bind_eq_some_iff]

theorem packByte_cons (a : Byte) (rest : List Byte) : packByte (a :: rest) = binW 8 a.toNat :: packByte rest := rfl

/-! The faults (R183): a packer answers exactly when its alphabet holds every byte. -/

theorem packNum_isSome_iff (c : List Byte) :
    (packNum c).isSome = true ↔ ∀ b ∈ c, (digitValue b).isSome = true := by
  induction c using packNum.induct with
  | case1 => simp [packNum]
  | case2 a => simp [Option.isSome_iff_exists, packNum_one_eq_some_iff]
  | case3 a b => simp [Option.isSome_iff_exists, packNum_two_eq_some_iff]
  | case4 a b c rest ih =>
    simp only [Option.isSome_iff_exists] at ih
    simp [Option.isSome_iff_exists, packNum_three_eq_some_iff, ih]

theorem packAlnum_isSome_iff (c : List Byte) :
    (packAlnum c).isSome = true ↔ ∀ b ∈ c, (alnumValue b).isSome = true := by
  induction c using packAlnum.induct with
  | case1 => simp [packAlnum]
  | case2 a => simp [Option.isSome_iff_exists, packAlnum_one_eq_some_iff]
  | case3 a b rest ih =>
    simp only [Option.isSome_iff_exists] at ih
    simp [Option.isSome_iff_exists, packAlnum_pair_eq_some_iff, ih]

theorem packNum_eq_none_iff (c : List Byte) : packNum c = none ↔ ∃ b ∈ c, digitValue b = none := by
  simpa using not_congr (packNum_isSome_iff c)

theorem packAlnum_eq_none_iff (c : List Byte) : packAlnum c = none ↔ ∃ b ∈ c, alnumValue b = none := by
  simpa using not_congr (packAlnum_isSome_iff c)

/-- Settles O46: each group by its equivalence, each fault by the alphabet. -/
theorem packersEmitTheStatedGroups : Obligations.PackersEmitTheStatedGroups := by
  refine ⟨fun a b c x y z rest gs ha hb hc hrest => ?three, fun a b x y ha hb => ?two, fun a x ha => ?one,
    fun a b x y rest gs ha hb hrest => ?pair, fun a x ha => ?single, packByte_cons, ⟨rfl, rfl, rfl⟩,
    packNum_eq_none_iff, packAlnum_eq_none_iff⟩
  case three => exact packNum_three_eq_some_iff.2 ⟨x, y, z, gs, ha, hb, hc, hrest, rfl⟩
  case two => exact packNum_two_eq_some_iff.2 ⟨x, y, ha, hb, rfl⟩
  case one => exact packNum_one_eq_some_iff.2 ⟨x, ha, rfl⟩
  case pair => exact packAlnum_pair_eq_some_iff.2 ⟨x, y, gs, ha, hb, hrest, rfl⟩
  case single => exact packAlnum_one_eq_some_iff.2 ⟨x, ha, rfl⟩

theorem data_isSome (c : List Byte) (m : Mode) : (data c m).isSome = (pack c m).isSome := Option.isSome_map

/-- Settles O48: CLASSIFY tests exactly the alphabet of the packer it picks. -/
theorem classifiedContentAlwaysPacks : Obligations.ClassifiedContentAlwaysPacks := by
  intro c
  rw [data_isSome, classify]
  split
  case isTrue digits => exact (packNum_isSome_iff c).2 (List.all_eq_true.1 digits)
  case isFalse =>
    split
    case isTrue symbols => exact (packAlnum_isSome_iff c).2 (List.all_eq_true.1 symbols)
    case isFalse => rfl

/-! The packed length (R185). -/

theorem dataBits_numeric_three_mul (n : Nat) : dataBits .numeric (3 * n) = 10 * n := by
  have rem : 3 * n % 3 = 0 := by omega
  simp only [dataBits, rem]; omega

theorem dataBits_numeric_three_mul_add_one (n : Nat) : dataBits .numeric (3 * n + 1) = 10 * n + 4 := by
  have rem : (3 * n + 1) % 3 = 1 := by omega
  simp only [dataBits, rem]; omega

theorem dataBits_numeric_three_mul_add_two (n : Nat) : dataBits .numeric (3 * n + 2) = 10 * n + 7 := by
  have rem : (3 * n + 2) % 3 = 2 := by omega
  simp only [dataBits, rem]; omega

theorem dataBits_alphanumeric_two_mul (n : Nat) : dataBits .alphanumeric (2 * n) = 11 * n := by
  simp only [dataBits]; omega

theorem dataBits_alphanumeric_two_mul_add_one (n : Nat) : dataBits .alphanumeric (2 * n + 1) = 11 * n + 6 := by
  simp only [dataBits]; omega

theorem dataBits_numeric_add_three (n : Nat) : dataBits .numeric (n + 3) = 10 + dataBits .numeric n := by
  simp only [dataBits, Nat.add_mod_right]; omega

theorem dataBits_alphanumeric_add_two (n : Nat) : dataBits .alphanumeric (n + 2) = 11 + dataBits .alphanumeric n := by
  simp only [dataBits]; omega

theorem dataBits_numeric_lt_succ (n : Nat) : dataBits .numeric n < dataBits .numeric (n + 1) := by
  obtain ⟨k, rfl | rfl | rfl⟩ : ∃ k, n = 3 * k ∨ n = 3 * k + 1 ∨ n = 3 * k + 2 := ⟨n / 3, by omega⟩
  · rw [dataBits_numeric_three_mul, dataBits_numeric_three_mul_add_one]; omega
  · rw [dataBits_numeric_three_mul_add_one, dataBits_numeric_three_mul_add_two]; omega
  · rw [dataBits_numeric_three_mul_add_two, show 3 * k + 2 + 1 = 3 * (k + 1) by ring, dataBits_numeric_three_mul]
    omega

theorem dataBits_strictMono (m : Mode) : StrictMono (dataBits m) := by
  refine strictMono_nat_of_lt_succ fun n => ?_
  cases m with
  | numeric => exact dataBits_numeric_lt_succ n
  | alphanumeric => simp only [dataBits]; omega
  | byte => simp only [dataBits]; omega

theorem packNum_flatten_length {c : List Byte} {gs : List Bits} (h : packNum c = some gs) :
    gs.flatten.length = dataBits .numeric c.length := by
  induction c using packNum.induct generalizing gs with
  | case1 => cases h; rfl
  | case2 a => obtain ⟨x, -, rfl⟩ := packNum_one_eq_some_iff.1 h; simp [dataBits]
  | case3 a b => obtain ⟨x, y, -, -, rfl⟩ := packNum_two_eq_some_iff.1 h; simp [dataBits]
  | case4 a b c rest ih =>
    obtain ⟨x, y, z, gs', -, -, -, hrest, rfl⟩ := packNum_three_eq_some_iff.1 h
    simp only [List.length_cons, List.flatten_cons, List.length_append, binW_length, ih hrest]
    exact (dataBits_numeric_add_three _).symm

theorem packAlnum_flatten_length {c : List Byte} {gs : List Bits} (h : packAlnum c = some gs) :
    gs.flatten.length = dataBits .alphanumeric c.length := by
  induction c using packAlnum.induct generalizing gs with
  | case1 => cases h; rfl
  | case2 a => obtain ⟨x, -, rfl⟩ := packAlnum_one_eq_some_iff.1 h; simp [dataBits]
  | case3 a b rest ih =>
    obtain ⟨x, y, gs', -, -, hrest, rfl⟩ := packAlnum_pair_eq_some_iff.1 h
    simp only [List.length_cons, List.flatten_cons, List.length_append, binW_length, ih hrest]
    exact (dataBits_alphanumeric_add_two _).symm

theorem packByte_flatten_length (c : List Byte) : (packByte c).flatten.length = dataBits .byte c.length := by
  simp [packByte, dataBits, List.length_flatten, Function.comp_def, Nat.mul_comm]

theorem data_eq_some_iff {c : List Byte} {m : Mode} {d : Bits} :
    data c m = some d ↔ ∃ gs, pack c m = some gs ∧ gs.flatten = d := Option.map_eq_some_iff

theorem data_length {c : List Byte} {m : Mode} {d : Bits} (h : data c m = some d) :
    d.length = dataBits m c.length := by
  obtain ⟨gs, hgs, rfl⟩ := data_eq_some_iff.1 h
  cases m with
  | numeric => exact packNum_flatten_length hgs
  | alphanumeric => exact packAlnum_flatten_length hgs
  | byte => cases hgs; exact packByte_flatten_length c

/-- Settles O44: the length is added up group by group; each further character adds at least one bit. -/
theorem packedDataHasDataBitsLength : Obligations.PackedDataHasDataBitsLength :=
  ⟨fun n => ⟨dataBits_numeric_three_mul n, dataBits_numeric_three_mul_add_one n, dataBits_numeric_three_mul_add_two n,
    dataBits_alphanumeric_two_mul n, dataBits_alphanumeric_two_mul_add_one n, rfl⟩,
    fun _ _ _ => data_length, fun m _ _ h => dataBits_strictMono m h⟩

/-! The ranges of R181 and R182: each group's value fits its field, and it gives back the group's characters. -/

section

variable {a b c a' b' c' : Byte} {x y z x' y' z' : Nat}

theorem digitValue_lt_10 (h : digitValue a = some x) : x < 10 := Nat.lt_succ_of_le (digitValue_spec h).1

theorem alnumValue_lt_45 (h : alnumValue a = some x) : x < 45 := Nat.lt_succ_of_le (alnumValue_le h)

theorem threeDigits_lt (hx : digitValue a = some x) (hy : digitValue b = some y) (hz : digitValue c = some z) :
    100 * x + 10 * y + z < 2 ^ 10 := by
  have lx := digitValue_lt_10 hx
  have ly := digitValue_lt_10 hy
  have lz := digitValue_lt_10 hz
  omega

theorem twoDigits_lt (hx : digitValue a = some x) (hy : digitValue b = some y) : 10 * x + y < 2 ^ 7 := by
  have lx := digitValue_lt_10 hx
  have ly := digitValue_lt_10 hy
  omega

theorem oneDigit_lt (hx : digitValue a = some x) : x < 2 ^ 4 := (digitValue_lt_10 hx).trans (by decide)

theorem alnumPair_lt (hx : alnumValue a = some x) (hy : alnumValue b = some y) : x * 45 + y < 2 ^ 11 := by
  have lx := alnumValue_lt_45 hx
  have ly := alnumValue_lt_45 hy
  omega

theorem oneAlnum_lt (hx : alnumValue a = some x) : x < 2 ^ 6 := (alnumValue_lt_45 hx).trans (by decide)

theorem twoDigits_inj (hx : digitValue a = some x) (hy : digitValue b = some y) (hx' : digitValue a' = some x')
    (hy' : digitValue b' = some y') (h : 10 * x + y = 10 * x' + y') : a = a' ∧ b = b' := by
  have ly := digitValue_lt_10 hy
  have ly' := digitValue_lt_10 hy'
  obtain ⟨rfl, rfl⟩ : x = x' ∧ y = y' := by omega
  exact ⟨digitValue_inj hx hx', digitValue_inj hy hy'⟩

theorem threeDigits_inj (hx : digitValue a = some x) (hy : digitValue b = some y) (hz : digitValue c = some z)
    (hx' : digitValue a' = some x') (hy' : digitValue b' = some y') (hz' : digitValue c' = some z')
    (h : 100 * x + 10 * y + z = 100 * x' + 10 * y' + z') : a = a' ∧ b = b' ∧ c = c' := by
  have lz := digitValue_lt_10 hz
  have lz' := digitValue_lt_10 hz'
  obtain ⟨first, rfl⟩ : 10 * x + y = 10 * x' + y' ∧ z = z' := by omega
  obtain ⟨ha, hb⟩ := twoDigits_inj hx hy hx' hy' first
  exact ⟨ha, hb, digitValue_inj hz hz'⟩

theorem alnumPair_inj (hx : alnumValue a = some x) (hy : alnumValue b = some y) (hx' : alnumValue a' = some x')
    (hy' : alnumValue b' = some y') (h : x * 45 + y = x' * 45 + y') : a = a' ∧ b = b' := by
  have ly := alnumValue_lt_45 hy
  have ly' := alnumValue_lt_45 hy'
  obtain ⟨rfl, rfl⟩ : x = x' ∧ y = y' := by omega
  exact ⟨alnumValue_inj hx hx', alnumValue_inj hy hy'⟩

end

/-! The packed data determines the content: equal counts cut the data at the same places. -/

theorem binW_append_inj {w x y : Nat} {r r' : Bits} (hx : x < 2 ^ w) (hy : y < 2 ^ w)
    (h : binW w x ++ r = binW w y ++ r') : x = y ∧ r = r' := by
  obtain ⟨head, tail⟩ := List.append_inj h (by rw [binW_length, binW_length])
  exact ⟨binW_inj hx hy head, tail⟩

theorem packNum_flatten_inj {c c' : List Byte} {gs gs' : List Bits} (hl : c.length = c'.length)
    (h : packNum c = some gs) (h' : packNum c' = some gs') (he : gs.flatten = gs'.flatten) : c = c' := by
  induction c using packNum.induct generalizing c' gs gs' with
  | case1 => exact (List.length_eq_zero_iff.1 hl.symm).symm
  | case2 a =>
    match c', hl with
    | [a'], _ =>
      obtain ⟨x, hx, rfl⟩ := packNum_one_eq_some_iff.1 h
      obtain ⟨x', hx', rfl⟩ := packNum_one_eq_some_iff.1 h'
      obtain ⟨rfl, -⟩ := binW_append_inj (oneDigit_lt hx) (oneDigit_lt hx') he
      rw [digitValue_inj hx hx']
  | case3 a b =>
    match c', hl with
    | [a', b'], _ =>
      obtain ⟨x, y, hx, hy, rfl⟩ := packNum_two_eq_some_iff.1 h
      obtain ⟨x', y', hx', hy', rfl⟩ := packNum_two_eq_some_iff.1 h'
      obtain ⟨value, -⟩ := binW_append_inj (twoDigits_lt hx hy) (twoDigits_lt hx' hy') he
      obtain ⟨rfl, rfl⟩ := twoDigits_inj hx hy hx' hy' value
      rfl
  | case4 a b d rest ih =>
    match c', hl with
    | a' :: b' :: d' :: rest', hl =>
      obtain ⟨x, y, z, gs, hx, hy, hz, hrest, rfl⟩ := packNum_three_eq_some_iff.1 h
      obtain ⟨x', y', z', gs', hx', hy', hz', hrest', rfl⟩ := packNum_three_eq_some_iff.1 h'
      obtain ⟨value, tail⟩ := binW_append_inj (threeDigits_lt hx hy hz) (threeDigits_lt hx' hy' hz') he
      obtain ⟨rfl, rfl, rfl⟩ := threeDigits_inj hx hy hz hx' hy' hz' value
      rw [ih (by simpa using hl) hrest hrest' tail]

theorem packAlnum_flatten_inj {c c' : List Byte} {gs gs' : List Bits} (hl : c.length = c'.length)
    (h : packAlnum c = some gs) (h' : packAlnum c' = some gs') (he : gs.flatten = gs'.flatten) : c = c' := by
  induction c using packAlnum.induct generalizing c' gs gs' with
  | case1 => exact (List.length_eq_zero_iff.1 hl.symm).symm
  | case2 a =>
    match c', hl with
    | [a'], _ =>
      obtain ⟨x, hx, rfl⟩ := packAlnum_one_eq_some_iff.1 h
      obtain ⟨x', hx', rfl⟩ := packAlnum_one_eq_some_iff.1 h'
      obtain ⟨rfl, -⟩ := binW_append_inj (oneAlnum_lt hx) (oneAlnum_lt hx') he
      rw [alnumValue_inj hx hx']
  | case3 a b rest ih =>
    match c', hl with
    | a' :: b' :: rest', hl =>
      obtain ⟨x, y, gs, hx, hy, hrest, rfl⟩ := packAlnum_pair_eq_some_iff.1 h
      obtain ⟨x', y', gs', hx', hy', hrest', rfl⟩ := packAlnum_pair_eq_some_iff.1 h'
      obtain ⟨value, tail⟩ := binW_append_inj (alnumPair_lt hx hy) (alnumPair_lt hx' hy') he
      obtain ⟨rfl, rfl⟩ := alnumPair_inj hx hy hx' hy' value
      rw [ih (by simpa using hl) hrest hrest' tail]

theorem packByte_flatten_inj {c c' : List Byte} (hl : c.length = c'.length)
    (he : (packByte c).flatten = (packByte c').flatten) : c = c' := by
  induction c generalizing c' with
  | nil => exact (List.length_eq_zero_iff.1 hl.symm).symm
  | cons a rest ih =>
    match c', hl with
    | a' :: rest', hl =>
      obtain ⟨value, tail⟩ := binW_append_inj a.isLt a'.isLt he
      rw [BitVec.eq_of_toNat_eq value, ih (by simpa using hl) tail]

theorem data_inj {c c' : List Byte} {m : Mode} {d : Bits} (hl : c.length = c'.length)
    (h : data c m = some d) (h' : data c' m = some d) : c = c' := by
  obtain ⟨gs, hgs, rfl⟩ := data_eq_some_iff.1 h
  obtain ⟨gs', hgs', he⟩ := data_eq_some_iff.1 h'
  cases m with
  | numeric => exact packNum_flatten_inj hl hgs hgs' he.symm
  | alphanumeric => exact packAlnum_flatten_inj hl hgs hgs' he.symm
  | byte => cases hgs; cases hgs'; exact packByte_flatten_inj hl he.symm

/-- Settles O45: the fields of R206 give back the mode, the count and the data, and the data the content. -/
theorem finalStringDeterminesTheContent : Obligations.FinalStringDeterminesTheContent := by
  intro P c c' m m' e v bits h h'
  obtain ⟨d, hd, indicator, count, field, -⟩ := finalStringIsItsFieldsInOrder P c m e v bits h
  obtain ⟨d', hd', indicator', count', field', -⟩ := finalStringIsItsFieldsInOrder P c' m' e v bits h'
  obtain rfl : m = m' := by
    have sameCode := indicator.symm.trans indicator'
    revert sameCode
    cases m <;> cases m' <;> decide
  have sameLength : c.length = c'.length := count.symm.trans count'
  have sameData : d = d' := by
    rw [← field, ← field', data_length hd, data_length hd', sameLength]
  exact ⟨rfl, data_inj sameLength hd (sameData ▸ hd')⟩

section

variable {s t : State}

/-! FINAL answers once the count fits its field and the packer does not fault; its length is the law of R207. -/

theorem exists_final {P : Params} {c : List Byte} {m : Mode} {v : Version} (e : EcLevel)
    (fits : c.length < 2 ^ cciWidth v m) (packs : (data c m).isSome = true) :
    ∃ bits, final P c m e v = some bits := by
  obtain ⟨d, hd⟩ := Option.isSome_iff_exists.1 packs
  rw [final, if_neg fits.not_ge, hd]
  exact ⟨_, rfl⟩

theorem final_length {P : Params} {c : List Byte} {m : Mode} {e : EcLevel} {v : Version} {bits : Bits}
    (h : final P c m e v = some bits) : bits.length = 4 + cciWidth v m + dataBits m c.length +
      termLen (4 + cciWidth v m + dataBits m c.length) (requiredBits P v e) := by
  obtain ⟨-, d, hd, rfl⟩ := final_eq_some h
  simp [data_length hd, Nat.add_assoc]

theorem add_termLen_le {len required : Nat} (h : len ≤ required) : len + termLen len required ≤ required := by
  unfold termLen
  split <;> omega

theorem Inv.resolved_of_version (h : Inv s) {v : Version} (hv : s.version = some v) :
    s.mode = classify s.content ∧ resolve s.params s.content.length s.mode s.ecLevel = some v := by
  have notEmpty : s.content ≠ [] := fun empty =>
    Option.some_ne_none v (hv.symm.trans (h.empty empty).2)
  obtain ⟨mode, version⟩ := h.resolved notEmpty
  exact ⟨mode, version.symm.trans hv⟩

/-- In VERSIONED FINAL answers a string within required_bits: the content has its own class, and at most the
capacity that R73 lets fit. -/
theorem final_of_lawful (lawful : s.params.Lawful) (h : Inv s) {v : Version} (hv : s.version = some v) :
    ∃ bits, final s.params s.content s.mode s.ecLevel v = some bits ∧
      bits.length ≤ requiredBits s.params v s.ecLevel := by
  obtain ⟨mode, resolved⟩ := h.resolved_of_version hv
  have withinCap : s.content.length ≤ s.params.cap v s.ecLevel s.mode := le_cap_of_resolve resolved
  have countFits := withinCap.trans_lt (lawful.cci_fits v s.ecLevel s.mode)
  have packs : (data s.content s.mode).isSome = true := mode ▸ classifiedContentAlwaysPacks s.content
  have dataFits : 4 + cciWidth v s.mode + dataBits s.mode s.content.length ≤ requiredBits s.params v s.ecLevel :=
    calc 4 + cciWidth v s.mode + dataBits s.mode s.content.length
      _ ≤ 4 + cciWidth v s.mode + dataBits s.mode (s.params.cap v s.ecLevel s.mode) :=
        Nat.add_le_add_left ((dataBits_strictMono s.mode).monotone withinCap) _
      _ ≤ requiredBits s.params v s.ecLevel := lawful.data_fits v s.ecLevel s.mode
  obtain ⟨bits, hbits⟩ := exists_final s.ecLevel countFits packs
  exact ⟨bits, hbits, final_length hbits ▸ add_termLen_le dataFits⟩

/-! Fault(INTERNAL) with lawful parameters (R183, R202, R255). -/

theorem getFinalDataBody_of_unresolved (hv : s.version = none) :
    getFinalDataBody s = fail .invalidVersion (clearOutput s) := by
  rw [getFinalDataBody, hv]

theorem getFinalDataBody_of_fits {v : Version} {bits : Bits} (hv : s.version = some v)
    (hbits : final s.params s.content s.mode s.ecLevel v = some bits)
    (fits : bits.length ≤ s.params.outWords * 32) :
    getFinalDataBody s = succeed (BitVec.ofNat 32 bits.length) { s with out := bits, outValid := true } := by
  simp only [getFinalDataBody, hv, hbits, if_neg fits.not_gt]

theorem getFinalDataBody_fault_of_lawful (lawful : s.params.Lawful) (h : Inv s) :
    (getFinalDataBody s).fault = s.fault := by
  cases hv : s.version with
  | none => rw [getFinalDataBody_of_unresolved hv]; rfl
  | some v =>
    obtain ⟨bits, hbits, within⟩ := final_of_lawful lawful h hv
    rw [getFinalDataBody_of_fits hv hbits (within.trans (lawful.out_fits v s.ecLevel))]; rfl

/-- GET_FINAL_DATA alone can raise Fault(INTERNAL) (R255). -/
theorem commandBody_fault_of_ne {i : Instr} (hi : i ≠ .getFinalData) (hf : s.fault = false) :
    (commandBody i s).fault = false := by
  cases i with
  | getFinalData => exact absurd rfl hi
  | softReset => rfl
  | setContent =>
    simp only [commandBody, setContentBody]
    split
    · exact hf
    · split <;> exact hf
  | setEcLevel => simp only [commandBody, setEcLevelBody]; split <;> exact hf
  | validateLength => simp only [commandBody, validateLengthBody]; split <;> exact hf
  | nop | getVersion | stageClear | illegal08 | illegal10 | illegal20 | illegal40 | illegal80 | stageData | argWrite
  | roWrite | read => exact hf

theorem commandBody_fault_of_lawful (lawful : s.params.Lawful) (h : Inv s) (i : Instr) (hf : s.fault = false) :
    (commandBody i s).fault = false := by
  by_cases hi : i = .getFinalData
  case pos => rw [hi]; exact (getFinalDataBody_fault_of_lawful lawful h).trans hf
  case neg => exact commandBody_fault_of_ne hi hf

theorem exec_command_fault_of_lawful (lawful : s.params.Lawful) (h : Inv s) {i : Instr} (hi : isCommand i = true)
    (he : exec i s = .next t) (hf : s.fault = false) : t.fault = false := by
  rw [exec_command i s hi, gated_of_no_fault _ s hf] at he
  cases he
  split
  · rfl
  · exact commandBody_fault_of_lawful lawful h i hf

end

/-- Settles O40: only a command sets FAULT, of the commands only GET_FINAL_DATA, and with lawful parameters not even
that one. -/
theorem lawfulRomsNeverRaiseInternal : Obligations.LawfulRomsNeverRaiseInternal := by
  intro s t lawful h hst hf
  obtain ⟨rest, -, rfl⟩ | ⟨op, -, he⟩ | ⟨-, e, -⟩ := step_cases hst
  · rfl
  · exact exec_command_fault_of_lawful lawful h (isCommand_decodeOpcode op) he hf
  · rw [e.frame]; exact hf

end Sys2Proof.Machine
end

section
/-! The formatter (43_formatter.md): the outcomes of GET_FINAL_DATA (R209), the length of the final string (R207), and
the state machine of R208. -/

namespace Sys2Proof.Machine

variable {s t : State}

/-! GET_FINAL_DATA past the FAULT gate. It raises Fault(INTERNAL) when FINAL does, or when the output window is too
small for the string. -/

theorem getFinalDataBody_of_final_none {v : Version} (hv : s.version = some v)
    (hnone : final s.params s.content s.mode s.ecLevel v = none) : getFinalDataBody s = raiseInternal s := by
  simp only [getFinalDataBody, hv, hnone]

theorem getFinalDataBody_of_too_long {v : Version} {bits : Bits} (hv : s.version = some v)
    (hbits : final s.params s.content s.mode s.ecLevel v = some bits)
    (tooLong : s.params.outWords * 32 < bits.length) : getFinalDataBody s = raiseInternal s := by
  simp only [getFinalDataBody, hv, hbits, if_pos tooLong]

/-- Settles O5: the word by the decoder, and each outcome by the body of GET_FINAL_DATA on its condition. -/
theorem getFinalDataBuildsOutputOrFails : Obligations.GetFinalDataBuildsOutputOrFails := by
  refine ⟨decode_cmd_write 0x00000004#32, fun s hf => ?_⟩
  rw [exec_command_of_no_fault (i := .getFinalData) rfl nofun hf, commandBody]
  refine ⟨fun hv => ?unresolved, fun v hv hnone => ?noString, fun v bits hv hbits tooLong => ?tooLong,
    fun v bits hv hbits fits => ?fits⟩
  case unresolved => rw [getFinalDataBody_of_unresolved hv]; rfl
  case noString => rw [getFinalDataBody_of_final_none hv hnone]; rfl
  case tooLong => rw [getFinalDataBody_of_too_long hv hbits tooLong]; rfl
  case fits => rw [getFinalDataBody_of_fits hv hbits fits]; rfl

/-- Without a version the output is empty already (R42(c), R42(d)), so clearing it changes nothing. -/
theorem Inv.clearOutput_of_unresolved (h : Inv s) (hv : s.version = none) : Machine.clearOutput s = s := by
  have notValid : s.outValid = false := by
    rw [← Bool.not_eq_true]
    intro valid
    obtain ⟨v, hv', -⟩ := h.output valid
    exact Option.some_ne_none v (hv'.symm.trans hv)
  rw [Machine.clearOutput, ← h.noOutput notValid, ← notValid]

/-- Settles O41: in VERSIONED the string FINAL gives is within required_bits, which the output window holds; in every
other state the output that the failure clears is empty. -/
theorem getFinalDataSucceedsExactlyInVersioned : Obligations.GetFinalDataSucceedsExactlyInVersioned := by
  intro s lawful h hf
  refine ⟨fun v hv => ?versioned, fun hv => ?unresolved⟩
  case versioned =>
    obtain ⟨bits, hbits, within⟩ := final_of_lawful lawful h hv
    obtain ⟨-, -, -, fits⟩ := getFinalDataBuildsOutputOrFails.2 s hf
    exact ⟨bits, hbits, within, fits v bits hv hbits (within.trans (lawful.out_fits v s.ecLevel))⟩
  case unresolved =>
    rw [exec_command_of_no_fault (i := .getFinalData) rfl nofun hf, commandBody, getFinalDataBody_of_unresolved hv,
      h.clearOutput_of_unresolved hv]
    rfl

/-- Settles O42: the length law as `final_length` has it, and a terminator that never passes required_bits. -/
theorem finalStringHasTheStatedLength : Obligations.FinalStringHasTheStatedLength := by
  intro P c m e v bits h
  exact ⟨final_length h, fun dataFits => final_length h ▸ add_termLen_le dataFits⟩

/-! STATE (R37, R208): EMPTY means that no content is stored, and SET_CONTENT never stores an empty one. -/

theorem stateField_eq_zero_iff : stateField s = 0 ↔ s.content = [] := by
  unfold stateField
  cases s.content with
  | nil => exact iff_of_true rfl rfl
  | cons b rest => cases s.version <;> exact iff_of_false (by simp) nofun

theorem stateField_congr (content : t.content = s.content) (version : t.version = s.version) :
    stateField t = stateField s := by
  rw [stateField, stateField, content, version]

theorem setContentBody_content_ne_nil (stored : s.content ≠ []) : (setContentBody s).content ≠ [] := by
  unfold setContentBody
  split
  · exact stored
  · split
    · exact stored
    · rename_i staged
      exact mt List.isEmpty_iff.2 staged

theorem exec_setContent_content_ne_nil (he : exec .setContent s = .next t) (stored : s.content ≠ []) :
    t.content ≠ [] := by
  rw [exec_command .setContent s rfl, if_neg nofun] at he
  cases he
  unfold gated
  split
  · exact stored
  · exact setContentBody_content_ne_nil stored

/-- Content, once stored, is only ever replaced by other content, until a reset. -/
theorem step_content_ne_nil (hst : step s = .next t) (hr : ¬ ResetsNext s) (hs : ¬ CommitsNext 0x07#8 s)
    (stored : s.content ≠ []) : t.content ≠ [] := by
  by_cases hset : CommitsNext 0x01#8 s
  case pos => exact exec_setContent_content_ne_nil ((step_commit hset).symm.trans hst) stored
  case neg =>
    obtain ⟨content, -⟩ := onlyTheNamedCommandsWriteEncoderState s t hst hr hs
    rwa [not_imp_comm.1 content hset]

theorem setEcLevel_commit_content (hst : step s = .next t) (hc : CommitsNext 0x02#8 s) : t.content = s.content :=
  (exec_command_effect (i := .setEcLevel) rfl nofun ((step_commit hc).symm.trans hst)).content nofun

/-- Settles O54: STATE is a function of CONTENT and VERSION, so it changes only with one of them; it is EMPTY exactly
without content. -/
theorem stateMachineTransitions : Obligations.StateMachineTransitions := by
  intro s t hst hr hs
  simp only [ne_eq, stateField_eq_zero_iff]
  refine ⟨fun changed => ?writers, step_content_ne_nil hst hr hs,
    fun hc empty => (setEcLevel_commit_content hst hc).trans empty⟩
  case writers =>
    obtain ⟨content, -, -, version, -⟩ := onlyTheNamedCommandsWriteEncoderState s t hst hr hs
    by_contra neither
    have sameContent : t.content = s.content := not_imp_comm.1 content fun hc => neither (.inl hc)
    exact changed (stateField_congr sameContent (not_imp_comm.1 version neither))

end Sys2Proof.Machine
end

section
/-! The control commands and the plain register accesses (44_control.md): NOP, STAGE_CLEAR, SOFT_RESET and the illegal
opcodes past the FAULT gate; ARG_WRITE, RO_WRITE and READ; a CMD write at rest and while BUSY. -/

namespace Sys2Proof.Machine

variable {s : State}

/-! A CMD write (R237). -/

theorem accept_cmdWrite (w : Word) (s : State) : accept (writeWord 0x004#13 w) s = .next (issue (opcodeOf w) s) :=
  accept_of_command (decode_cmd_write w) (isCommand_decodeOpcode _) s

theorem issue_of_rest (op : BitVec 8) (hp : s.pending = none) :
    issue op s = respond 0 (drawn
      { s with pending := some ⟨op, s.arg, Config.tCmd op s.draws⟩, polled := false }) := by
  rw [issue, busy_of_none s hp, if_neg Bool.false_ne_true]

/-- At rest the CMD write is a command issue. -/
theorem step_cmdWrite_of_rest {w : Word} {rest : List HostEvent}
    (hh : s.host = .access (writeWord 0x004#13 w) :: rest) (hp : s.pending = none) :
    step s = .next (issue (opcodeOf w) { s with host := rest }) := by
  rw [step_of_rest (not_resetsNext_of_access hh) hp, hostTurn_access hh, accept_cmdWrite]

/-- The command that a CMD write at rest leaves pending, for some number of cycles. -/
theorem step_cmdWrite_pending {w : Word} {rest : List HostEvent}
    (hh : s.host = .access (writeWord 0x004#13 w) :: rest) (hp : s.pending = none) :
    ∃ t n, step s = .next t ∧ t = { s with
      host := rest, rsp := some ⟨0, false⟩, draws := t.draws, polled := t.polled
      pending := some ⟨opcodeOf w, s.arg, n⟩ } := by
  refine ⟨_, Config.tCmd (opcodeOf w) s.draws, step_cmdWrite_of_rest hh hp, ?_⟩
  rw [issue_of_rest (s := { s with host := rest }) _ hp]
  rfl

/-- While BUSY the CMD write is dropped, and the pending command is one cycle nearer its commit. -/
theorem step_cmdWrite_of_busy {w : Word} {rest : List HostEvent} {op : BitVec 8} {arg : Word} {k : Nat}
    (hh : s.host = .access (writeWord 0x004#13 w) :: rest) (hp : s.pending = some ⟨op, arg, k + 1⟩) :
    step s = .next (dropWrite { s with host := rest, pending := some ⟨op, arg, k⟩, polled := false }) := by
  rw [step_of_busy (not_resetsNext_of_access hh) hp,
    hostTurn_access (s := { s with pending := some ⟨op, arg, k⟩ }) hh, accept_cmdWrite, issue_of_busy _ rfl]

/-- Settles O21: the CMD write at rest and while BUSY, and the commit, which every command ends with BUSY = 0. -/
theorem commandIssueLatchesAndCommits : Obligations.CommandIssueLatchesAndCommits := by
  refine ⟨fun s w rest hh => ⟨step_cmdWrite_pending hh,
    fun op arg k hp => ⟨_, step_cmdWrite_of_busy hh hp, rfl⟩⟩, fun s op commits => ?commit⟩
  case commit =>
    obtain ⟨t, ht, ended⟩ := exec_command_pending (isCommand_decodeOpcode op) s
    exact ⟨step_commit commits, t, (step_commit commits).trans ht, ended⟩

/-! The commands. -/

/-- Settles O1: the body of NOP past the FAULT gate; its issue is that of every CMD write. -/
theorem nopWritesErrAndResultOnly : Obligations.NopWritesErrAndResultOnly :=
  ⟨decode_cmd_write 0x00000000#32, fun _ hf => exec_command_of_no_fault (i := .nop) rfl nofun hf,
    fun _ _ hp hh => step_cmdWrite_pending hh hp⟩

/-- Settles O7: the body of STAGE_CLEAR past the FAULT gate. -/
theorem stageClearEmptiesTheStage : Obligations.StageClearEmptiesTheStage :=
  ⟨decode_cmd_write 0x00000006#32, fun _ hf => exec_command_of_no_fault (i := .stageClear) rfl nofun hf⟩

/-- Settles O8: SOFT_RESET is `resetState` from any state, since it is not gated. -/
theorem softResetRestoresResetValues : Obligations.SoftResetRestoresResetValues :=
  ⟨decode_cmd_write 0x00000007#32, fun s => ⟨_, exec_command .softReset s rfl, rfl⟩⟩

/-- The requests of the named commands carry the opcodes 0 to 7, so an opcode from 8 on names an ILLEGAL row. -/
theorem commandBody_of_illegal {op : BitVec 8} (illegal : 8 ≤ op.toNat) :
    decodeOpcode op ≠ .softReset ∧ commandBody (decodeOpcode op) = fail .badCommand := by
  have carried := encodeRequest_decodeOpcode op
  have command := isCommand_decodeOpcode op
  generalize decodeOpcode op = i at carried command ⊢
  cases i with
  | illegal08 | illegal10 | illegal20 | illegal40 | illegal80 => exact ⟨nofun, rfl⟩
  | nop | setContent | setEcLevel | getVersion | getFinalData | validateLength | stageClear | softReset =>
    obtain rfl := cmdRequest_inj carried
    exact absurd illegal (by decide)
  | stageData | argWrite | roWrite | read => cases command

theorem exec_of_illegal {op : BitVec 8} (illegal : 8 ≤ op.toNat) (hf : s.fault = false) :
    exec (decodeOpcode op) s = .next (fail .badCommand s) := by
  obtain ⟨notReset, body⟩ := commandBody_of_illegal illegal
  rw [exec_command_of_no_fault (isCommand_decodeOpcode op) notReset hf, body]

/-- Settles O9: the word names an ILLEGAL row by its opcode alone, and the five rows have one body. -/
theorem illegalOpcodesReportBadCommand : Obligations.IllegalOpcodesReportBadCommand :=
  ⟨fun w _ illegal hf => ⟨_, decode_cmd_write w, exec_of_illegal illegal hf⟩,
    fun low _ hf => exec_command_of_no_fault (i := .illegal08 low) rfl nofun hf,
    fun low _ hf => exec_command_of_no_fault (i := .illegal10 low) rfl nofun hf,
    fun low _ hf => exec_command_of_no_fault (i := .illegal20 low) rfl nofun hf,
    fun low _ hf => exec_command_of_no_fault (i := .illegal40 low) rfl nofun hf,
    fun low _ hf => exec_command_of_no_fault (i := .illegal80 low) rfl nofun hf⟩

/-! The register accesses. -/

theorem exec_argWrite_of_rest (d : Word) (hp : s.pending = none) :
    exec (.argWrite d) s = .next (respond 0 { s with arg := d }) := by
  simp only [exec, execArgWrite, busy_of_none s hp, Bool.false_eq_true, if_false]

theorem exec_argWrite_of_busy (d : Word) (hp : s.pending ≠ none) :
    exec (.argWrite d) s = .next (dropWrite s) := by
  simp only [exec, execArgWrite, busy_of_some s hp, if_true]

/-- Settles O11: the whole word by the decoder, and the two cases of the port. -/
theorem argWriteStoresOrDrops : Obligations.ArgWriteStoresOrDrops :=
  ⟨decode_arg_write, fun d _ => ⟨exec_argWrite_of_rest d, fun hp => ⟨_, exec_argWrite_of_busy d hp, rfl⟩⟩⟩

/-- No word of the output window takes writes. -/
theorem not_writable_window {off : Offset} (h : 0x1000 ≤ off.toNat) : writable (locOf off) = false := by
  rw [locOf_out off h]; rfl

/-- Settles O12: each of these offsets is aligned and names a place that takes no writes. -/
theorem readOnlyWritesAreIgnored : Obligations.ReadOnlyWritesAreIgnored := by
  intro off w place
  obtain ⟨ha, ignored⟩ : aligned off = true ∧ writable (locOf off) = false := by
    obtain register | ⟨window, ha⟩ := place
    · revert off
      exact List.forall_iff_forall_mem.1 (by decide)
    · exact ⟨ha, not_writable_window window⟩
  exact ⟨decode_ignored_write off w ha ignored, fun _ => rfl⟩

/-- Settles O13: the read at rest and while BUSY, and the places that hold 0. -/
theorem readReturnsRegisterOrFreeValue : Obligations.ReadReturnsRegisterOrFreeValue := by
  refine ⟨fun off => decode_read off 0#32, fun _ _ => exec_read_of_rest,
    fun off s ha hp _ _ => ?busy, fun s => ⟨?cmd, ?stageData, fun off above below => ?reserved⟩⟩
  case busy =>
    rw [exec_read_of_busy ha (busy_of_some s hp)]
    obtain ⟨d, h | h⟩ := readBusy_cases s (locOf off) <;> exact ⟨_, d, rfl, by rw [h]; rfl⟩
  case cmd => rw [locOf_cmd]; rfl
  case stageData => rw [locOf_stageData]; rfl
  case reserved => rw [locOf_reserved off above below]; rfl

end Sys2Proof.Machine
end

section
/-! Exceptions (60_exceptions.md): the FAULT gate, how a command can fail and with which codes, what is recorded as a
HOST fault, and an idle cycle. -/

namespace Sys2Proof.Machine

variable {s t : State}

/-! The FAULT gate (R256). -/

theorem exec_command_of_fault {i : Instr} (hi : isCommand i = true) (hs : i ≠ .softReset) (hf : s.fault = true) :
    exec i s = .next (fail .internal s) := by
  rw [exec_command i s hi, if_neg hs, gated_of_fault _ s hf, fail]

/-- Settles O27: a command by its gate; the ports are not gated, so each does what it does without FAULT. -/
theorem faultGateStopsEveryOtherCommand : Obligations.FaultGateStopsEveryOtherCommand :=
  ⟨fun _ _ hf hi hs => exec_command_of_fault hi hs hf, fun b _ _ hp room => exec_stageData_of_room b hp room,
    fun d _ _ hp => exec_argWrite_of_rest d hp, fun _ _ _ hp ha => exec_read_of_rest ha hp⟩

/-! An idle cycle (R264). -/

theorem hostTurn_idle {rest : List HostEvent} (hh : s.host = .idle :: rest) :
    hostTurn s = .next { s with host := rest } := by
  rw [hostTurn, hh]

theorem hostTurn_nil (hh : s.host = []) : hostTurn s = .next s := by
  rw [hostTurn, hh]

/-- Settles O32: at rest the cycle is the outside's, and it presents no access. -/
theorem idleHoldsEveryRegister : Obligations.IdleHoldsEveryRegister := by
  refine ⟨fun s rest hp hh => ?idle, fun s hp hh => ?empty⟩
  case idle => rw [step_of_rest (by simp [ResetsNext, hh]) hp, hostTurn_idle hh]
  case empty => rw [step_of_rest (by simp [ResetsNext, hh]) hp, hostTurn_nil hh]

/-! How a command can end. -/

/-- A command ends as its body does, unless the FAULT gate stops it. -/
theorem exec_command_cases {i : Instr} (hi : isCommand i = true) (he : exec i s = .next t) :
    (i ≠ .softReset ∧ t = fail .internal s) ∨ t = commandBody i s := by
  by_cases hs : i = .softReset
  case pos => subst hs; cases he; exact .inr rfl
  case neg =>
    cases hf : s.fault with
    | true => rw [exec_command_of_fault hi hs hf] at he; cases he; exact .inl ⟨hs, rfl⟩
    | false => rw [exec_command_of_no_fault hi hs hf] at he; cases he; exact .inr rfl

theorem setContentBody_cases (s : State) :
    setContentBody s = fail .stageOverflow (clearStage s) ∨ setContentBody s = fail .invalidInput s ∨
      setContentBody s = commitStage s := by
  cases overflow : s.stageOvf with
  | true => exact .inl (setContentBody_of_overflow overflow)
  | false =>
    by_cases empty : s.stage = []
    · exact .inr (.inl (setContentBody_of_empty overflow empty))
    · exact .inr (.inr (setContentBody_of_staged overflow empty))

theorem setEcLevelBody_cases (s : State) :
    (setEcLevelBody s).err = .noError ∨ setEcLevelBody s = fail .invalidLength s :=
  (le_or_gt _ _).imp (fun fits => congrArg State.err (setEcLevelBody_of_le fits)) setEcLevelBody_of_gt

theorem validateLengthBody_cases (s : State) :
    validateLengthBody s = succeed 0 s ∨ validateLengthBody s = fail .invalidLength s :=
  (le_or_gt _ _).imp validateLengthBody_of_le validateLengthBody_of_gt

theorem getFinalDataBody_cases (s : State) :
    (getFinalDataBody s).err = .noError ∨ getFinalDataBody s = fail .invalidVersion (clearOutput s) ∨
      getFinalDataBody s = raiseInternal s := by
  cases hv : s.version with
  | none => exact .inr (.inl (getFinalDataBody_of_unresolved hv))
  | some v =>
    cases hbits : final s.params s.content s.mode s.ecLevel v with
    | none => exact .inr (.inr (getFinalDataBody_of_final_none hv hbits))
    | some bits =>
      obtain fits | tooLong := le_or_gt bits.length (s.params.outWords * 32)
      · exact .inl (congrArg State.err (getFinalDataBody_of_fits hv hbits fits))
      · exact .inr (.inr (getFinalDataBody_of_too_long hv hbits tooLong))

/-- All that a failed command can have done: besides ERR and RESULT only SET_CONTENT and GET_FINAL_DATA write
anything (R253). -/
theorem failed_command_cases {i : Instr} (hi : isCommand i = true) (he : exec i s = .next t)
    (failed : t.err ≠ .noError) :
    (∃ code, t = fail code s) ∨ (i = .setContent ∧ t = fail .stageOverflow (clearStage s)) ∨
      (i = .getFinalData ∧ (t = fail .invalidVersion (clearOutput s) ∨ t = raiseInternal s)) := by
  obtain ⟨-, gate⟩ | rfl := exec_command_cases hi he
  · exact .inl ⟨_, gate⟩
  · cases i with
    | nop | getVersion | stageClear | softReset => exact absurd rfl failed
    | setContent =>
      obtain overflow | empty | committed := setContentBody_cases s
      · exact .inr (.inl ⟨rfl, overflow⟩)
      · exact .inl ⟨_, empty⟩
      · exact absurd (congrArg State.err committed) failed
    | setEcLevel =>
      obtain succeeded | tooLong := setEcLevelBody_cases s
      · exact absurd succeeded failed
      · exact .inl ⟨_, tooLong⟩
    | validateLength =>
      obtain fits | tooLong := validateLengthBody_cases s
      · exact absurd (congrArg State.err fits) failed
      · exact .inl ⟨_, tooLong⟩
    | getFinalData =>
      obtain succeeded | unresolved | internal := getFinalDataBody_cases s
      · exact absurd succeeded failed
      · exact .inr (.inr ⟨rfl, .inl unresolved⟩)
      · exact .inr (.inr ⟨rfl, .inr internal⟩)
    | illegal08 | illegal10 | illegal20 | illegal40 | illegal80 => exact .inl ⟨_, rfl⟩
    | stageData | argWrite | roWrite | read => cases hi

/-- Settles O55: the four ways a command can fail, each read off what it writes. -/
theorem failedCommandsArePrecise : Obligations.FailedCommandsArePrecise := by
  intro i s t hi he failed
  obtain ⟨code, rfl⟩ | ⟨rfl, rfl⟩ | ⟨rfl, rfl | rfl⟩ := failed_command_cases hi he failed
  · exact ⟨rfl, by simp, by simp, by simp⟩
  · exact ⟨rfl, fun _ => ⟨rfl, rfl, rfl, rfl⟩, by simp, by simp⟩
  · exact ⟨rfl, by simp, fun _ => ⟨rfl, rfl, rfl⟩, by simp⟩
  · exact ⟨rfl, by simp, fun _ => ⟨rfl, rfl, rfl⟩, fun _ => ⟨rfl, rfl, rfl⟩⟩

theorem exec_port_err {i : Instr} (hi : isCommand i = false) (he : exec i s = .next t) : t.err = s.err := by
  obtain ⟨u, hu, e, -⟩ := exec_port i s hi
  cases hu.symm.trans he
  rw [e.frame]

/-- Settles O56: the gate's INTERNAL, or the code of one of the outcomes of the command's body. -/
theorem commandsEndWithTheirListedCodes : Obligations.CommandsEndWithTheirListedCodes := by
  intro i s t he
  cases i with
  | nop | getVersion | stageClear =>
    obtain ⟨-, rfl⟩ | rfl := exec_command_cases rfl he
    · exact .inr rfl
    · exact .inl rfl
  | setContent =>
    obtain ⟨-, rfl⟩ | rfl := exec_command_cases rfl he
    · exact .inr (.inr (.inr rfl))
    · obtain overflow | empty | committed := setContentBody_cases s
      · exact .inr (.inl (congrArg State.err overflow))
      · exact .inr (.inr (.inl (congrArg State.err empty)))
      · exact .inl (congrArg State.err committed)
  | setEcLevel =>
    obtain ⟨-, rfl⟩ | rfl := exec_command_cases rfl he
    · exact .inr (.inr rfl)
    · exact (setEcLevelBody_cases s).imp_right fun tooLong => .inl (congrArg State.err tooLong)
  | validateLength =>
    obtain ⟨-, rfl⟩ | rfl := exec_command_cases rfl he
    · exact .inr (.inr rfl)
    · exact (validateLengthBody_cases s).imp (congrArg State.err) fun tooLong => .inl (congrArg State.err tooLong)
  | getFinalData =>
    obtain ⟨-, rfl⟩ | rfl := exec_command_cases rfl he
    · exact .inr (.inr rfl)
    · exact (getFinalDataBody_cases s).imp_right (.imp (congrArg State.err) (congrArg State.err))
  | softReset =>
    obtain ⟨notReset, -⟩ | rfl := exec_command_cases rfl he
    · exact absurd rfl notReset
    · rfl
  | illegal08 | illegal10 | illegal20 | illegal40 | illegal80 =>
    obtain ⟨-, rfl⟩ | rfl := exec_command_cases rfl he
    · exact .inr rfl
    · exact .inl rfl
  | stageData | argWrite | roWrite | read => exact exec_port_err rfl he

/-! HOST faults (R258). -/

/-- The offsets of CMD, ARG and STAGE_DATA, where a write while BUSY is a HOST fault. -/
def WritablePlace (off : Offset) : Prop := off = 0x004#13 ∨ off = 0x008#13 ∨ off = 0x02C#13

theorem writablePlace_of_writable {off : Offset} (h : writable (locOf off) = true) : WritablePlace off := by
  cases hl : locOf off with
  | cmd => exact .inl (locOf_eq_cmd off hl)
  | arg => exact .inr (.inl (locOf_eq_arg off hl))
  | stageData => exact .inr (.inr (locOf_eq_stageData off hl))
  | _ => rw [hl] at h; cases h

/-- Where no command commits, the access at the head of the queue is accepted, in a state with the same BUSY. -/
theorem step_access {r : Request} {rest : List HostEvent} (hh : s.host = .access r :: rest)
    (hp : ∀ op arg, s.pending ≠ some ⟨op, arg, 0⟩) :
    ∃ u, step s = accept r u ∧ u.hostFault = s.hostFault ∧ u.busy = s.busy := by
  have noReset := not_resetsNext_of_access hh
  match hq : s.pending with
  | none =>
    refine ⟨{ s with host := rest }, ?_, rfl, rfl⟩
    rw [step_of_rest noReset hq, hostTurn_access hh]
  | some ⟨op, arg, 0⟩ => exact absurd hq (hp op arg)
  | some ⟨op, arg, k + 1⟩ =>
    refine ⟨{ s with pending := some ⟨op, arg, k⟩, host := rest }, ?_, rfl, ?_⟩
    · rw [step_of_busy noReset hq, hostTurn_access (s := { s with pending := some ⟨op, arg, k⟩ }) hh]
    · rw [State.busy, State.busy, hq]; rfl

theorem accept_malformed {r : Request} (h : r.size ≠ 2#2 ∨ aligned r.addr = false) (s : State) :
    accept r s = .next (busError s) := by
  obtain ⟨e, hd⟩ := decodeRequest_error (h.imp_right fun ha => by simpa [aligned] using ha)
  exact accept_of_error hd s

theorem accept_write_of_busy {off : Offset} (hoff : WritablePlace off) (w : Word) (hb : s.busy = true) :
    ∃ t, accept (writeWord off w) s = .next t ∧ t.hostFault = (s.hostFault <|> some .writeWhileBusy) := by
  have hp : s.pending ≠ none := Option.isSome_iff_ne_none.1 hb
  obtain rfl | rfl | rfl := hoff
  · rw [accept_cmdWrite, issue_of_busy _ hb]
    exact ⟨_, rfl, rfl⟩
  · rw [accept_of_port (decode_arg_write w) rfl, notePoll_of_busy _ _ hb, exec_argWrite_of_busy w hp]
    exact ⟨_, rfl, rfl⟩
  · rw [accept_of_port (decode_stage_write w) rfl, notePoll_of_busy _ _ hb, exec_stageData_of_busy _ hp]
    exact ⟨_, rfl, rfl⟩

/-- The two kinds of accesses that R258 calls HOST faults. -/
def Misuse (busy : Bool) (r : Request) : Prop :=
  r.size ≠ 2#2 ∨ aligned r.addr = false ∨ (busy = true ∧ r.write = true ∧ WritablePlace r.addr)

theorem exec_read_hostFault {off : Offset} (ha : aligned off = true) (he : exec (.read off) s = .next t) :
    t.hostFault = s.hostFault := by
  by_cases hp : s.pending = none
  · rw [exec_read_of_rest ha hp] at he
    cases he; rfl
  · rw [exec_read_of_busy ha (busy_of_some s hp)] at he
    cases he
    obtain ⟨d, h | h⟩ := readBusy_cases s (locOf off) <;> rw [h] <;> rfl

theorem accept_write_of_rest_hostFault {off : Offset} (hoff : WritablePlace off) {w : Word} (hp : s.pending = none)
    (he : accept (writeWord off w) s = .next t) : t.hostFault = s.hostFault := by
  obtain rfl | rfl | rfl := hoff
  · rw [accept_cmdWrite, issue_of_rest _ hp] at he
    cases he; rfl
  · rw [accept_of_port (decode_arg_write w) rfl, notePoll_of_ne s (i := .argWrite w) nofun,
      exec_argWrite_of_rest w hp] at he
    cases he; rfl
  · rw [accept_of_port (decode_stage_write w) rfl, notePoll_of_ne s (i := .stageData (byteOf w)) nofun] at he
    obtain room | full := Nat.lt_or_ge s.stage.length s.params.stageDepth
    · rw [exec_stageData_of_room _ hp room] at he
      cases he; rfl
    · rw [exec_stageData_of_full _ hp full] at he
      cases he; rfl

/-- An access that is no misuse records nothing: a read, an ignored write, or a write at rest. -/
theorem accept_hostFault {r : Request} (proper : ¬ Misuse s.busy r) (he : accept r s = .next t) :
    t.hostFault = s.hostFault := by
  obtain ⟨write, off, size, w⟩ := r
  simp only [Misuse, not_or, not_and, ne_eq, not_not, Bool.not_eq_false] at proper
  obtain ⟨rfl, ha, hw⟩ := proper
  cases write with
  | false =>
    rw [accept_of_port (decode_read off w ha) rfl] at he
    exact (exec_read_hostFault ha he).trans (notePoll_hostFault s _)
  | true =>
    change accept (writeWord off w) s = .next t at he
    cases takes : writable (locOf off) with
    | false =>
      rw [accept_of_port (decode_ignored_write off w ha takes) rfl] at he
      cases he; rfl
    | true =>
      have place := writablePlace_of_writable takes
      have atRest : s.pending = none := by
        by_contra hp
        exact hw (busy_of_some s hp) rfl place
      exact accept_write_of_rest_hostFault place atRest he

theorem hostTurn_hostFault (ht : hostTurn s = .next t) :
    t.hostFault = s.hostFault ∨ ∃ r rest, s.host = .access r :: rest ∧ Misuse s.busy r := by
  unfold hostTurn at ht
  split at ht
  · cases ht; exact .inl rfl
  · cases ht; exact .inl rfl
  · cases ht; exact .inl rfl
  · rename_i r rest hh
    by_cases misuse : Misuse s.busy r
    · exact .inr ⟨r, rest, hh, misuse⟩
    · exact .inl (accept_hostFault (s := { s with host := rest }) misuse ht)

theorem exec_command_hostFault {i : Instr} (hi : isCommand i = true) (he : exec i s = .next t) :
    t.hostFault = s.hostFault := by
  obtain ⟨-, rfl⟩ | rfl := exec_command_cases hi he
  · rfl
  · obtain ⟨-, -, -, -, -, kept, -⟩ := commandBody_frame i s hi
    exact kept

/-- A step that records or erases a HOST fault is one that takes a misuse from the queue. -/
theorem step_hostFault (hst : step s = .next t) :
    t.hostFault = s.hostFault ∨ ∃ r rest, s.host = .access r :: rest ∧ Misuse s.busy r := by
  obtain ⟨rest, -, rfl⟩ | ⟨op, -, he⟩ | ⟨-, -, ⟨-, ht⟩ | ⟨op, arg, k, hp, -, ht⟩⟩ := step_cases hst
  · exact .inl rfl
  · exact .inl (exec_command_hostFault (isCommand_decodeOpcode op) he)
  · exact hostTurn_hostFault ht
  · rw [busy_of_some s (by rw [hp]; nofun)]
    exact hostTurn_hostFault ht

theorem step_keeps_hostFault (hst : step s = .next t) {f : HostFault} (hf : s.hostFault = some f) :
    t.hostFault = some f := by
  obtain ⟨rest, -, rfl⟩ | ⟨op, -, he⟩ | ⟨-, e, -⟩ := step_cases hst
  · exact hf
  · exact (exec_command_hostFault (isCommand_decodeOpcode op) he).trans hf
  · exact e.hostFault f hf

/-- Settles O57: the two kinds of misuse are recorded by `busError` and `dropWrite`, and a step without one leaves
the record. -/
theorem hostFaultsAreRecordedOnly : Obligations.HostFaultsAreRecordedOnly := by
  refine ⟨fun s r rest hh hp bad => ?busError, fun s off w rest op arg k hoff hh hp => ?writeWhileBusy,
    fun s t hst => ⟨fun f => step_keeps_hostFault hst, fun clear recorded => ?recordedOnly⟩⟩
  case busError =>
    obtain ⟨u, hu, same, -⟩ := step_access hh hp
    rw [hu, accept_malformed bad, ← same]
    exact ⟨_, rfl, rfl⟩
  case writeWhileBusy =>
    obtain ⟨u, hu, same, busy⟩ := step_access hh (by rw [hp]; nofun)
    rw [hu, ← same]
    exact accept_write_of_busy hoff w (busy.trans (busy_of_some s (by rw [hp]; nofun)))
  case recordedOnly =>
    exact (step_hostFault hst).resolve_left fun same => recorded (same.trans clear)

end Sys2Proof.Machine
end

section
/-! Reset and the end of a run (70_reset_and_hazards.md): `rst` abandons a pending command, and the record of the poll
that ends a run. -/

namespace Sys2Proof.Machine

variable {s t : State}

/-! Reset by `rst` (R280, R290). -/

/-- `rst` comes before everything else a step could do, the commit of a pending command included. -/
theorem step_of_rst {rest : List HostEvent} (hh : s.host = .rst :: rest) :
    step s = .next (resetState { s with host := rest }) := by
  rw [step, hh]

/-- Settles O25: the three things a step can do to a pending command, and the equation of `rst`. -/
theorem rstAbandonsThePendingCommand : Obligations.RstAbandonsThePendingCommand := by
  refine ⟨fun s t p hp hst => ?pendingCommand, fun s rest hh => ⟨_, step_of_rst hh, rfl⟩⟩
  case pendingCommand =>
    obtain ⟨rest, hh, -⟩ | ⟨op, commits, -⟩ |
        ⟨-, -, ⟨atRest, -⟩ | ⟨op, arg, k, waiting, nearer, -⟩⟩ := step_cases hst
    · exact .inl (resetsNext_of_rst hh)
    · obtain ⟨noReset, arg, hq⟩ := commits
      cases hp.symm.trans hq
      exact .inr (.inl ⟨noReset, arg, hq⟩)
    · cases hp.symm.trans atRest
    · cases hp.symm.trans waiting
      exact .inr (.inr ⟨_, nearer, rfl, rfl, rfl⟩)

/-! The record of the poll (R291). -/

theorem exec_command_polled {i : Instr} (hi : isCommand i = true) (he : exec i s = .next t) :
    t.polled = s.polled := by
  obtain ⟨-, rfl⟩ | rfl := exec_command_cases hi he
  · rfl
  · obtain ⟨-, -, -, -, -, -, kept⟩ := commandBody_frame i s hi
    exact kept

/-- Only a read of a whole word decodes to a READ. -/
theorem eq_of_decodeRequest_read {r : Request} {off : Offset} (hd : decodeRequest r = .ok (.read off)) :
    r = ⟨false, off, 2#2, r.wdata⟩ := by
  obtain ⟨write, addr, size, w⟩ := r
  unfold decodeRequest at hd
  split at hd
  · cases hd
  rename_i word
  split at hd
  · cases hd
  cases write with
  | false =>
    cases not_not.1 word
    cases hd; rfl
  | true =>
    cases hl : locOf addr with
    | cmd =>
      simp only [hl, if_true, Except.ok.injEq] at hd
      have command := isCommand_decodeOpcode (opcodeOf w)
      rw [hd] at command
      cases command
    | _ => simp [hl] at hd

/-- The one access that records a poll: a read of STATUS at rest. -/
theorem accept_polled {r : Request} (he : accept r s = .next t) (unpolled : s.polled = false)
    (polled : t.polled = true) : (∃ w, r = ⟨false, 0x00C#13, 2#2, w⟩) ∧ s.pending = none := by
  cases hd : decodeRequest r with
  | error e =>
    cases (accept_of_error hd s).symm.trans he
    rw [busError_polled, unpolled] at polled
    cases polled
  | ok i =>
    cases hi : isCommand i with
    | true =>
      cases (accept_of_command hd hi s).symm.trans he
      rw [issue_polled] at polled
      cases polled
    | false =>
      rw [accept_of_port hd hi] at he
      obtain ⟨u, hu, -, -, -, kept⟩ := exec_port i (notePoll i s) hi
      cases hu.symm.trans he
      rw [kept, notePoll_polled, unpolled, Bool.false_or, Bool.and_eq_true, Bool.not_eq_true',
        decide_eq_true_iff] at polled
      obtain ⟨notBusy, rfl⟩ := polled
      exact ⟨⟨_, eq_of_decodeRequest_read hd⟩, by simpa [State.busy] using notBusy⟩

theorem hostTurn_polled (ht : hostTurn s = .next t) (unpolled : s.polled = false) (polled : t.polled = true) :
    (∃ w rest, s.host = .access ⟨false, 0x00C#13, 2#2, w⟩ :: rest) ∧ s.pending = none := by
  unfold hostTurn at ht
  split at ht
  case h_4 r rest hh =>
    obtain ⟨⟨w, rfl⟩, atRest⟩ := accept_polled ht unpolled polled
    exact ⟨⟨w, rest, hh⟩, atRest⟩
  all_goals
    cases ht
    cases unpolled.symm.trans polled

/-- A step that records a poll takes a read of STATUS from the queue, at rest. -/
theorem step_polled (hst : step s = .next t) (unpolled : s.polled = false) (polled : t.polled = true) :
    (∃ w rest, s.host = .access ⟨false, 0x00C#13, 2#2, w⟩ :: rest) ∧ s.pending = none := by
  obtain ⟨rest, -, rfl⟩ | ⟨op, -, he⟩ | ⟨-, -, ⟨-, ht⟩ | ⟨op, arg, k, -, -, ht⟩⟩ := step_cases hst
  · cases unpolled.symm.trans polled
  · rw [exec_command_polled (isCommand_decodeOpcode op) he, unpolled] at polled
    cases polled
  · exact hostTurn_polled ht unpolled polled
  · cases (hostTurn_polled ht unpolled polled).2

theorem statusIdle_busy (s : State) : (statusIdle s).getLsbD 0 = s.busy := statusFrom_getLsbD s _ 0

/-- A poll at rest is answered with STATUS and recorded. -/
theorem step_poll {w : Word} {rest : List HostEvent} (hh : s.host = .access ⟨false, 0x00C#13, 2#2, w⟩ :: rest)
    (hp : s.pending = none) :
    step s = .next (respond (statusIdle s) { s with host := rest, polled := true }) := by
  obtain ⟨atRest, -⟩ := stepRunsTheDecodedInstruction.1 s _ _ rest hh (decode_read 0x00C#13 w rfl) rfl
  have answered := (atRest hp).trans (exec_read_of_rest rfl hp)
  rw [locOf_status, decide_eq_true rfl, Bool.or_true] at answered
  exact answered

/-! The end of a run (R291). -/

theorem RunEnded.tail (ended : RunEnded s) : RunEnded { s with host := s.host.tail } :=
  ⟨fun r queued => ended.1 r (List.mem_of_mem_tail queued), ended.2⟩

/-- With no access left and no command pending, a cycle without `rst` only moves the queue on. -/
theorem RunEnded.hostTurn_eq (ended : RunEnded s) (noReset : ¬ ResetsNext s) :
    hostTurn s = .next { s with host := s.host.tail } := by
  cases hh : s.host with
  | nil => rw [hostTurn_nil hh, List.tail_nil, ← hh]
  | cons event rest =>
    cases event with
    | idle => rw [hostTurn_idle hh, List.tail_cons]
    | rst => exact absurd (resetsNext_of_rst hh) noReset
    | access r => exact absurd (hh ▸ List.mem_cons_self) (ended.1 r)

/-- Settles O33: a CMD write clears the record and a read of STATUS at rest sets it, as nothing else does; after an
ended run no command is pending, by the invariant, and no access is left to change the result. -/
theorem runEndsOnlyAfterAnIdlePoll : Obligations.RunEndsOnlyAfterAnIdlePoll := by
  refine ⟨fun s w rest hh noCommit => ?cmdWrite, fun s w rest hh hp => ?poll,
    fun s t hst unpolled polled => ?onlyPoll, fun s t inv ended noReset hst => ?ended⟩
  case cmdWrite =>
    obtain ⟨u, hu, -, -⟩ := step_access hh noCommit
    exact ⟨_, hu.trans (accept_cmdWrite w u), issue_polled _ u⟩
  case poll =>
    exact ⟨_, _, step_poll hh hp, rfl, rfl, (statusIdle_busy s).trans (busy_of_none s hp)⟩
  case onlyPoll =>
    obtain ⟨⟨w, rest, hh⟩, atRest⟩ := step_polled hst unpolled polled
    exact ⟨w, rest, hh, atRest⟩
  case ended =>
    rw [step_of_rest noReset (inv.polled ended.2), ended.hostTurn_eq noReset] at hst
    cases hst
    exact ⟨rfl, ended.tail⟩

end Sys2Proof.Machine
end
